-- ==== Sys2Proof/Word.lean ====
section
/-! DEFINITION. The word types: a 16-bit data word and an 8-bit character (R31, R80). -/

namespace Sys2Proof

/-- A block's data word, 16 bits (R80). -/
abbrev Word := BitVec 16

/-- A character, an AF code or a byte of the output queue. -/
abbrev Byte := BitVec 8

end Sys2Proof
end

