-- ==== Sys2Proof/Syntax.lean ====
section
/-! DEFINITION. The operations, one constructor per row of spec/opcode_table.json, and the words they are carried in. -/

namespace Sys2Proof

/-- The four data words of a group, `group[0..3]` (R83). -/
structure GroupWords where
  b0 : Word
  b1 : Word
  b2 : Word
  b3 : Word
  deriving DecidableEq, Repr

/-- What every group carries: PI, TP and PTY (R83, R84). -/
structure Head where
  pi  : Word
  tp  : Bool
  pty : BitVec 5
  deriving DecidableEq, Repr

/-- The type-specific bits of block 1 of group type 0 (R89): TA, MS, DI and the segment address. -/
structure Tuning where
  ta  : Bool
  ms  : Bool
  di  : Bool
  seg : BitVec 2
  deriving DecidableEq, Repr

/-- The fields of group 4A (R91); `spare` is not read. -/
structure ClockFields where
  spare    : BitVec 3
  mjd      : BitVec 17
  hour     : BitVec 5
  minute   : BitVec 6
  negative : Bool
  offset   : BitVec 5
  deriving DecidableEq, Repr

/-- The fields of group 8A (R92). The three fields of block 1 are T, F and CI (DP when F = 1). Bits 15..12 of block 2
and the free format are named as in a subsequent group; `Machine.Operands` reads the other layouts off the same bits. -/
structure TmcFields where
  t     : Bool
  f     : Bool
  ci    : BitVec 3
  first : Bool
  sg    : Bool
  gsi   : BitVec 2
  ff    : BitVec 28
  deriving DecidableEq, Repr

/-- The bits of a group that no handler reads (R93, R168): block1[4:0], block 2 and block 3. They are kept because a
RawGroup message carries them (R165). -/
structure Unread where
  low5   : BitVec 5
  block2 : Word
  block3 : Word
  deriving DecidableEq, Repr

/-- The operations (R12): the input bits, the two resets, and the 32 group-type codes (R88). A version B group of
type 0 or 2 carries the PI again in block 2 (R87), which no handler reads. -/
inductive Instr where
  | bit0
  | bit1
  | ctxReset
  | hardReset
  | group0A  (hd : Head) (tune : Tuning) (afHi afLo c0 c1 : Byte)
  | group0B  (hd : Head) (tune : Tuning) (piRepeat : Word) (c0 c1 : Byte)
  | group1A  (hd : Head) (u : Unread)
  | group1B  (hd : Head) (u : Unread)
  | group2A  (hd : Head) (ab : Bool) (seg : BitVec 4) (c0 c1 c2 c3 : Byte)
  | group2B  (hd : Head) (ab : Bool) (seg : BitVec 4) (piRepeat : Word) (c0 c1 : Byte)
  | group3A  (hd : Head) (u : Unread)
  | group3B  (hd : Head) (u : Unread)
  | group4A  (hd : Head) (clock : ClockFields)
  | group4B  (hd : Head) (u : Unread)
  | group5A  (hd : Head) (u : Unread)
  | group5B  (hd : Head) (u : Unread)
  | group6A  (hd : Head) (u : Unread)
  | group6B  (hd : Head) (u : Unread)
  | group7A  (hd : Head) (u : Unread)
  | group7B  (hd : Head) (u : Unread)
  | group8A  (hd : Head) (tmc : TmcFields)
  | group8B  (hd : Head) (u : Unread)
  | group9A  (hd : Head) (u : Unread)
  | group9B  (hd : Head) (u : Unread)
  | group10A (hd : Head) (u : Unread)
  | group10B (hd : Head) (u : Unread)
  | group11A (hd : Head) (u : Unread)
  | group11B (hd : Head) (u : Unread)
  | group12A (hd : Head) (u : Unread)
  | group12B (hd : Head) (u : Unread)
  | group13A (hd : Head) (u : Unread)
  | group13B (hd : Head) (u : Unread)
  | group14A (hd : Head) (u : Unread)
  | group14B (hd : Head) (u : Unread)
  | group15A (hd : Head) (u : Unread)
  | group15B (hd : Head) (u : Unread)
  deriving DecidableEq, Repr

/-- A word that carries an operation, tagged with the port it stands on (the "format" column of the opcode table;
its control-port rows stand on two different ports, R322). The `group` form has no port in the hardware: it is the
group that the assembler hands to DECODE_GROUP (R154, R303). Log 1, log 2. -/
inductive OpWord where
  | bitPort      (bitData : BitVec 1)
  | ctxResetPort (ctxReset : BitVec 1)
  | rstPort      (rst : BitVec 1)
  | group        (g : GroupWords)
  deriving DecidableEq, Repr

end Sys2Proof
end

