-- ==== Sys2Proof/Config.lean ====
section
/-! DEFINITION. The implementation parameters of R6 and the values an implementation fixes for itself. -/

namespace Sys2Proof

/-- The build-time parameters of R6 (R40). WINDOW_BITS has 26 as its one legal value (D3), so it is a width in
the types. PTY_LOCALE and EMIT_RAW_GROUP are sampled at reset and stand in `Machine.Configuration`. -/
structure Params where
  /-- BITCTR_W, the width of the bit counter. -/
  bitctrW : Nat
  /-- AF_LIST_DEPTH, in pairs. -/
  afListDepth : Nat
  /-- MSG_FIFO_BYTES. -/
  msgFifoBytes : Nat
  /-- PTY_TABLE: for each programme type, the RDS name and the RBDS name. -/
  ptyTable : Vector (List Byte × List Byte) 32
  deriving DecidableEq, Repr

/-- MAX_STEP_CYCLES less one: the implementation's own (R6, D31), and at least one cycle. It has no body, so nothing
can be proved of its value. Log 9. -/
opaque Config.maxStepCyclesLessOne : Nat

/-- The free value behind the length of a `BIT` step: which of its 1..MAX_STEP_CYCLES cycles step number n takes
(R324, R326). It has no body. Log 9. -/
opaque Config.freeStepLength : Nat → Nat

end Sys2Proof
end

