-- ==== Sys2Proof/WellFormed.lean ====
section
/-! DEFINITION. What is well formed: the parameters in the legal ranges of R6, and the words that carry an operation.
Every term of `Instr` is well formed by the widths of its fields (R84, R89 to R92), so no check stands for it. -/

namespace Sys2Proof

/-- The legal values of R6. PTY_TABLE's shape, 32 x 2 byte strings, is in its type. -/
def Params.legal (p : Params) : Bool :=
  decide (8 ≤ p.bitctrW) && decide (p.bitctrW ≤ 64) &&
  decide (2 ≤ p.afListDepth) && decide (p.afListDepth ≤ 1024) &&
  decide (1024 ≤ p.msgFifoBytes) && decide (p.msgFifoBytes ≤ 65536)

/-- A word that carries an operation: a bit of either value, a request line at 1 (R320, R323), or any group (R85). -/
def OpWord.wellFormed : OpWord → Bool
  | .bitPort _ => true
  | .ctxResetPort r => r == 1#1
  | .rstPort r => r == 1#1
  | .group _ => true

end Sys2Proof
end

