-- ==== Sys2Proof/Decode.lean ====
section
/-! DEFINITION. The decoder from operation words to operations, its encoder, and the opcode table as rows of mask and
match (R80 to R97, spec/opcode_table.json). -/

namespace Sys2Proof

/-! ## Fields -/

/-- Bits 15..8 of a data word, the earlier character (R63). -/
def hiByte (w : Word) : Byte := w.extractLsb' 8 8

/-- Bits 7..0 of a data word, the later character (R63). -/
def loByte (w : Word) : Byte := w.extractLsb' 0 8

/-- The group-type code, `group[1][15:11]` (R85). -/
def typeCode (b1 : Word) : BitVec 5 := b1.extractLsb' 11 5

/-- PI from block 0; TP and PTY from block 1 (R84, R162). -/
def headOf (g : GroupWords) : Head where
  pi := g.b0
  tp := g.b1.getLsbD 10
  pty := g.b1.extractLsb' 5 5

/-- TA, MS, DI and the segment address (R89). -/
def tuningOf (b1 : Word) : Tuning where
  ta := b1.getLsbD 4
  ms := b1.getLsbD 3
  di := b1.getLsbD 2
  seg := b1.extractLsb' 0 2

/-- The text A/B flag (R90). -/
def textFlagOf (b1 : Word) : Bool := b1.getLsbD 4

/-- The RadioText segment address (R90). -/
def textSegOf (b1 : Word) : BitVec 4 := b1.extractLsb' 0 4

/-- The fields of group 4A: `mjd = {group[1][1:0], group[2][15:1]}`, `hour = {group[2][0], group[3][15:12]}` (R91). -/
def clockOf (g : GroupWords) : ClockFields where
  spare := g.b1.extractLsb' 2 3
  mjd := (g.b1.extractLsb' 0 2 ++ g.b2.extractLsb' 1 15).cast (by decide)
  hour := (g.b2.extractLsb' 0 1 ++ g.b3.extractLsb' 12 4).cast (by decide)
  minute := g.b3.extractLsb' 6 6
  negative := g.b3.getLsbD 5
  offset := g.b3.extractLsb' 0 5

/-- The fields of group 8A (R92); the free format is `{group[2][11:0], group[3]}` (R264). -/
def tmcOf (g : GroupWords) : TmcFields where
  t := g.b1.getLsbD 4
  f := g.b1.getLsbD 3
  ci := g.b1.extractLsb' 0 3
  first := g.b2.getLsbD 15
  sg := g.b2.getLsbD 14
  gsi := g.b2.extractLsb' 12 2
  ff := (g.b2.extractLsb' 0 12 ++ g.b3).cast (by decide)

/-- The bits no handler reads (R93). -/
def unreadOf (g : GroupWords) : Unread where
  low5 := g.b1.extractLsb' 0 5
  block2 := g.b2
  block3 := g.b3

/-! ## The decoder -/

/-- Why a word carries no operation. -/
inductive DecodeError where
  /-- `ctx_reset = 0`: no context reset is requested (R323). -/
  | noContextReset
  /-- `rst = 0`: no hard reset is requested (R320). -/
  | noHardReset
  deriving DecidableEq, Repr

/-- The operation a group selects: the map of R88, total on the 32 codes (R85). The last arm is code 31 alone, since
a code is below 32. -/
def decodeGroup (g : GroupWords) : Instr :=
  match (typeCode g.b1).toNat with
  | 0  => .group0A (headOf g) (tuningOf g.b1) (hiByte g.b2) (loByte g.b2) (hiByte g.b3) (loByte g.b3)
  | 1  => .group0B (headOf g) (tuningOf g.b1) g.b2 (hiByte g.b3) (loByte g.b3)
  | 2  => .group1A (headOf g) (unreadOf g)
  | 3  => .group1B (headOf g) (unreadOf g)
  | 4  => .group2A (headOf g) (textFlagOf g.b1) (textSegOf g.b1) (hiByte g.b2) (loByte g.b2) (hiByte g.b3) (loByte g.b3)
  | 5  => .group2B (headOf g) (textFlagOf g.b1) (textSegOf g.b1) g.b2 (hiByte g.b3) (loByte g.b3)
  | 6  => .group3A (headOf g) (unreadOf g)
  | 7  => .group3B (headOf g) (unreadOf g)
  | 8  => .group4A (headOf g) (clockOf g)
  | 9  => .group4B (headOf g) (unreadOf g)
  | 10 => .group5A (headOf g) (unreadOf g)
  | 11 => .group5B (headOf g) (unreadOf g)
  | 12 => .group6A (headOf g) (unreadOf g)
  | 13 => .group6B (headOf g) (unreadOf g)
  | 14 => .group7A (headOf g) (unreadOf g)
  | 15 => .group7B (headOf g) (unreadOf g)
  | 16 => .group8A (headOf g) (tmcOf g)
  | 17 => .group8B (headOf g) (unreadOf g)
  | 18 => .group9A (headOf g) (unreadOf g)
  | 19 => .group9B (headOf g) (unreadOf g)
  | 20 => .group10A (headOf g) (unreadOf g)
  | 21 => .group10B (headOf g) (unreadOf g)
  | 22 => .group11A (headOf g) (unreadOf g)
  | 23 => .group11B (headOf g) (unreadOf g)
  | 24 => .group12A (headOf g) (unreadOf g)
  | 25 => .group12B (headOf g) (unreadOf g)
  | 26 => .group13A (headOf g) (unreadOf g)
  | 27 => .group13B (headOf g) (unreadOf g)
  | 28 => .group14A (headOf g) (unreadOf g)
  | 29 => .group14B (headOf g) (unreadOf g)
  | 30 => .group15A (headOf g) (unreadOf g)
  | _  => .group15B (headOf g) (unreadOf g)

/-- The operation a word carries (R12), rejecting by name a request line at 0 (log 15). -/
def decode : OpWord → Except DecodeError Instr
  | .bitPort b => .ok (if b == 0#1 then .bit0 else .bit1)
  | .ctxResetPort r => if r == 1#1 then .ok .ctxReset else .error .noContextReset
  | .rstPort r => if r == 1#1 then .ok .hardReset else .error .noHardReset
  | .group g => .ok (decodeGroup g)

/-! ## The encoder -/

/-- Block 1: code, TP, PTY and the five type-specific bits (R84). -/
def headerWord (code : BitVec 5) (hd : Head) (low5 : BitVec 5) : Word :=
  (code ++ BitVec.ofBool hd.tp ++ hd.pty ++ low5).cast (by decide)

/-- TA, MS, DI and segment in block1[4:0] (R89). -/
def tuningBits (t : Tuning) : BitVec 5 :=
  (BitVec.ofBool t.ta ++ BitVec.ofBool t.ms ++ BitVec.ofBool t.di ++ t.seg).cast (by decide)

/-- Text flag and segment in block1[4:0] (R90). -/
def textBits (ab : Bool) (seg : BitVec 4) : BitVec 5 := (BitVec.ofBool ab ++ seg).cast (by decide)

/-- A data word of two bytes, high byte first (R63). -/
def bytePair (hi lo : Byte) : Word := (hi ++ lo).cast (by decide)

def group0AWords (hd : Head) (tune : Tuning) (afHi afLo c0 c1 : Byte) : GroupWords :=
  ⟨hd.pi, headerWord 0#5 hd (tuningBits tune), bytePair afHi afLo, bytePair c0 c1⟩

def group0BWords (hd : Head) (tune : Tuning) (piRepeat : Word) (c0 c1 : Byte) : GroupWords :=
  ⟨hd.pi, headerWord 1#5 hd (tuningBits tune), piRepeat, bytePair c0 c1⟩

def group2AWords (hd : Head) (ab : Bool) (seg : BitVec 4) (c0 c1 c2 c3 : Byte) : GroupWords :=
  ⟨hd.pi, headerWord 4#5 hd (textBits ab seg), bytePair c0 c1, bytePair c2 c3⟩

def group2BWords (hd : Head) (ab : Bool) (seg : BitVec 4) (piRepeat : Word) (c0 c1 : Byte) : GroupWords :=
  ⟨hd.pi, headerWord 5#5 hd (textBits ab seg), piRepeat, bytePair c0 c1⟩

def group4AWords (hd : Head) (c : ClockFields) : GroupWords :=
  ⟨hd.pi, headerWord 8#5 hd ((c.spare ++ c.mjd.extractLsb' 15 2).cast (by decide)),
    (c.mjd.extractLsb' 0 15 ++ c.hour.extractLsb' 4 1).cast (by decide),
    (c.hour.extractLsb' 0 4 ++ c.minute ++ BitVec.ofBool c.negative ++ c.offset).cast (by decide)⟩

def group8AWords (hd : Head) (m : TmcFields) : GroupWords :=
  ⟨hd.pi, headerWord 16#5 hd ((BitVec.ofBool m.t ++ BitVec.ofBool m.f ++ m.ci).cast (by decide)),
    (BitVec.ofBool m.first ++ BitVec.ofBool m.sg ++ m.gsi ++ m.ff.extractLsb' 16 12).cast (by decide), m.ff.extractLsb' 0 16⟩

/-- A group whose type-specific bits no handler reads. -/
def unreadWords (code : BitVec 5) (hd : Head) (u : Unread) : GroupWords :=
  ⟨hd.pi, headerWord code hd u.low5, u.block2, u.block3⟩

/-- The word of an operation, by the tables of R84, R88 to R92 and R322. -/
def encode : Instr → OpWord
  | .bit0 => .bitPort 0#1
  | .bit1 => .bitPort 1#1
  | .ctxReset => .ctxResetPort 1#1
  | .hardReset => .rstPort 1#1
  | .group0A hd tune afHi afLo c0 c1 => .group (group0AWords hd tune afHi afLo c0 c1)
  | .group0B hd tune piRepeat c0 c1 => .group (group0BWords hd tune piRepeat c0 c1)
  | .group1A hd u => .group (unreadWords 2#5 hd u)
  | .group1B hd u => .group (unreadWords 3#5 hd u)
  | .group2A hd ab seg c0 c1 c2 c3 => .group (group2AWords hd ab seg c0 c1 c2 c3)
  | .group2B hd ab seg piRepeat c0 c1 => .group (group2BWords hd ab seg piRepeat c0 c1)
  | .group3A hd u => .group (unreadWords 6#5 hd u)
  | .group3B hd u => .group (unreadWords 7#5 hd u)
  | .group4A hd clock => .group (group4AWords hd clock)
  | .group4B hd u => .group (unreadWords 9#5 hd u)
  | .group5A hd u => .group (unreadWords 10#5 hd u)
  | .group5B hd u => .group (unreadWords 11#5 hd u)
  | .group6A hd u => .group (unreadWords 12#5 hd u)
  | .group6B hd u => .group (unreadWords 13#5 hd u)
  | .group7A hd u => .group (unreadWords 14#5 hd u)
  | .group7B hd u => .group (unreadWords 15#5 hd u)
  | .group8A hd tmc => .group (group8AWords hd tmc)
  | .group8B hd u => .group (unreadWords 17#5 hd u)
  | .group9A hd u => .group (unreadWords 18#5 hd u)
  | .group9B hd u => .group (unreadWords 19#5 hd u)
  | .group10A hd u => .group (unreadWords 20#5 hd u)
  | .group10B hd u => .group (unreadWords 21#5 hd u)
  | .group11A hd u => .group (unreadWords 22#5 hd u)
  | .group11B hd u => .group (unreadWords 23#5 hd u)
  | .group12A hd u => .group (unreadWords 24#5 hd u)
  | .group12B hd u => .group (unreadWords 25#5 hd u)
  | .group13A hd u => .group (unreadWords 26#5 hd u)
  | .group13B hd u => .group (unreadWords 27#5 hd u)
  | .group14A hd u => .group (unreadWords 28#5 hd u)
  | .group14B hd u => .group (unreadWords 29#5 hd u)
  | .group15A hd u => .group (unreadWords 30#5 hd u)
  | .group15B hd u => .group (unreadWords 31#5 hd u)

/-! ## The opcode table -/

/-- A row of spec/opcode_table.json: the port its word stands on, and the mask and match of the table's word (block 1 of
a group). -/
inductive TablePort where
  | bitPort | ctxResetPort | rstPort | groupHeader
  deriving DecidableEq, Repr

structure TableRow where
  port  : TablePort
  mask  : Nat
  value : Nat
  deriving DecidableEq, Repr

/-- The row of each operation, transcribed from the table's match and mask. -/
def tableRow : Instr → TableRow
  | .bit0 => ⟨.bitPort, 0x1, 0x0⟩
  | .bit1 => ⟨.bitPort, 0x1, 0x1⟩
  | .ctxReset => ⟨.ctxResetPort, 0x1, 0x1⟩
  | .hardReset => ⟨.rstPort, 0x1, 0x1⟩
  | .group0A _ _ _ _ _ _ => ⟨.groupHeader, 0xF800, 0x0000⟩
  | .group0B _ _ _ _ _ => ⟨.groupHeader, 0xF800, 0x0800⟩
  | .group1A _ _ => ⟨.groupHeader, 0xF800, 0x1000⟩
  | .group1B _ _ => ⟨.groupHeader, 0xF800, 0x1800⟩
  | .group2A _ _ _ _ _ _ _ => ⟨.groupHeader, 0xF800, 0x2000⟩
  | .group2B _ _ _ _ _ _ => ⟨.groupHeader, 0xF800, 0x2800⟩
  | .group3A _ _ => ⟨.groupHeader, 0xF800, 0x3000⟩
  | .group3B _ _ => ⟨.groupHeader, 0xF800, 0x3800⟩
  | .group4A _ _ => ⟨.groupHeader, 0xF800, 0x4000⟩
  | .group4B _ _ => ⟨.groupHeader, 0xF800, 0x4800⟩
  | .group5A _ _ => ⟨.groupHeader, 0xF800, 0x5000⟩
  | .group5B _ _ => ⟨.groupHeader, 0xF800, 0x5800⟩
  | .group6A _ _ => ⟨.groupHeader, 0xF800, 0x6000⟩
  | .group6B _ _ => ⟨.groupHeader, 0xF800, 0x6800⟩
  | .group7A _ _ => ⟨.groupHeader, 0xF800, 0x7000⟩
  | .group7B _ _ => ⟨.groupHeader, 0xF800, 0x7800⟩
  | .group8A _ _ => ⟨.groupHeader, 0xF800, 0x8000⟩
  | .group8B _ _ => ⟨.groupHeader, 0xF800, 0x8800⟩
  | .group9A _ _ => ⟨.groupHeader, 0xF800, 0x9000⟩
  | .group9B _ _ => ⟨.groupHeader, 0xF800, 0x9800⟩
  | .group10A _ _ => ⟨.groupHeader, 0xF800, 0xA000⟩
  | .group10B _ _ => ⟨.groupHeader, 0xF800, 0xA800⟩
  | .group11A _ _ => ⟨.groupHeader, 0xF800, 0xB000⟩
  | .group11B _ _ => ⟨.groupHeader, 0xF800, 0xB800⟩
  | .group12A _ _ => ⟨.groupHeader, 0xF800, 0xC000⟩
  | .group12B _ _ => ⟨.groupHeader, 0xF800, 0xC800⟩
  | .group13A _ _ => ⟨.groupHeader, 0xF800, 0xD000⟩
  | .group13B _ _ => ⟨.groupHeader, 0xF800, 0xD800⟩
  | .group14A _ _ => ⟨.groupHeader, 0xF800, 0xE000⟩
  | .group14B _ _ => ⟨.groupHeader, 0xF800, 0xE800⟩
  | .group15A _ _ => ⟨.groupHeader, 0xF800, 0xF000⟩
  | .group15B _ _ => ⟨.groupHeader, 0xF800, 0xF800⟩

/-- The port of a word. -/
def OpWord.port : OpWord → TablePort
  | .bitPort _ => .bitPort
  | .ctxResetPort _ => .ctxResetPort
  | .rstPort _ => .rstPort
  | .group _ => .groupHeader

/-- The bits of a word that the opcode table numbers: the port's one bit, or block 1 of a group. -/
def OpWord.tableBits : OpWord → Nat
  | .bitPort b => b.toNat
  | .ctxResetPort b => b.toNat
  | .rstPort b => b.toNat
  | .group g => g.b1.toNat

/-- The word meant by `nbits` bits `w` of the opcode table (log 1). The rows of one byte stand on three different ports
and two of them have the same match and mask as BIT1; such a word is read on the bit port. A word of more than one
byte is a group: block 1 first, then blocks 0, 2 and 3, which are 0 where the table gives no bits. -/
def tableOpWord (nbits w : Nat) : OpWord :=
  if nbits ≤ 8 then .bitPort (BitVec.ofNat 1 w)
  else
    let v := w % 2 ^ nbits
    .group ⟨BitVec.ofNat 16 (v / 2 ^ 16), BitVec.ofNat 16 v, BitVec.ofNat 16 (v / 2 ^ 32), BitVec.ofNat 16 (v / 2 ^ 48)⟩

/-- The operation the decoder reads from a word of the opcode table. -/
def decodeTableWord (nbits w : Nat) : Option Instr := (decode (tableOpWord nbits w)).toOption

end Sys2Proof
end

