-- ==== Sys2Proof/Machine/Context.lean ====
section
/-! DEFINITION. The station context: what the decoder accumulates for one PI (R32 to R37). -/

namespace Sys2Proof.Machine

/-- The StationContext of R32 to R37, in the spec's names. `afList` holds the valid entries `af_list[0 .. af_len-1]`,
oldest first, each as `(hi, lo)`, so `af_len` is its length (log 6). -/
structure StationContext where
  pi             : Word
  pty            : BitVec 5
  tp             : Bool
  ta             : Bool
  ms             : Bool
  monoStereo     : Bool
  artificialHead : Bool
  compressed     : Bool
  dynamicPty     : Bool
  psBuf          : Vector Byte 8
  psSeen         : BitVec 4
  psMask         : BitVec 4
  rtBuf          : Vector Byte 64
  rtMask         : BitVec 16
  rtAb           : Bool
  afList         : List (Byte × Byte)
  tmcFf          : Vector (BitVec 28) 4
  tmcNoGroups    : BitVec 2
  tmcCi          : BitVec 3
  deriving DecidableEq, Repr

/-- FRESH_CONTEXT(pi): the fresh values of R32 to R37 (R43). -/
def freshContext (pi : Word) : StationContext where
  pi := pi
  pty := 0
  tp := false
  ta := false
  ms := false
  monoStereo := false
  artificialHead := false
  compressed := false
  dynamicPty := false
  psBuf := Vector.replicate 8 0x20#8
  psSeen := 0
  psMask := 0
  rtBuf := Vector.replicate 64 0x20#8
  rtMask := 0
  rtAb := false
  afList := []
  tmcFf := Vector.replicate 4 0
  tmcNoGroups := 0
  tmcCi := 0

end Sys2Proof.Machine
end

