-- ==== Sys2Proof/Machine/Text.lean ====
section
/-! DEFINITION. Text helpers of R10 and the default PTY name table (R289). -/

namespace Sys2Proof.Machine

/-- A literal as the sequence of the ASCII codes of its characters (R10). -/
def ascii (s : String) : List Byte := s.toList.map fun c => BitVec.ofNat 8 c.toNat

/-- The ASCII digit of d, for d below 10. -/
def digit (d : Nat) : Byte := BitVec.ofNat 8 (0x30 + d)

/-- The decimal digits of v, most significant first, with at most `fuel` digits. -/
def decDigits : Nat → Nat → List Byte
  | 0, _ => []
  | fuel + 1, v => if v < 10 then [digit v] else decDigits fuel (v / 10) ++ [digit (v % 10)]

/-- `dec(v)`: the shortest decimal spelling, "0" for zero (R10). A number has no more digits than its value plus one. -/
def dec (v : Nat) : List Byte := decDigits (v + 1) v

/-- Left-pad with "0" to at least n characters (R10). -/
def padZero (n : Nat) (s : List Byte) : List Byte := List.replicate (n - s.length) 0x30#8 ++ s

/-- `dec2(v)` (R10; the `dd2` of R243). -/
def dec2 (v : Nat) : List Byte := padZero 2 (dec v)

/-- `dec4(v)` (R10; the `dd4` of R243). -/
def dec4 (v : Nat) : List Byte := padZero 4 (dec v)

/-- An uppercase hexadecimal digit. -/
def hexDigit (d : BitVec 4) : Byte :=
  if d.toNat < 10 then BitVec.ofNat 8 (0x30 + d.toNat) else BitVec.ofNat 8 (0x41 + (d.toNat - 10))

/-- `hex4U(v)`: four uppercase hexadecimal digits, most significant first (R10, R281). -/
def hex4U (v : Word) : List Byte :=
  [hexDigit (v.extractLsb' 12 4), hexDigit (v.extractLsb' 8 4), hexDigit (v.extractLsb' 4 4), hexDigit (v.extractLsb' 0 4)]

/-- The default PTY_TABLE, rows 0 to 15 (R289): the RDS name, then the RBDS name. -/
def ptyNamesLow : Vector (List Byte × List Byte) 16 := #v[
  (ascii "Undefined", ascii "Undefined"),
  (ascii "News", ascii "News"),
  (ascii "Current Affairs", ascii "Information"),
  (ascii "Information", ascii "Sports"),
  (ascii "Sport", ascii "Talk"),
  (ascii "Education", ascii "Rock"),
  (ascii "Drama", ascii "Classic Rock"),
  (ascii "Culture", ascii "Adult Hits"),
  (ascii "Science", ascii "Soft Rock"),
  (ascii "Varied", ascii "Top 40"),
  (ascii "Pop Music", ascii "Country"),
  (ascii "Rock Music", ascii "Oldies"),
  (ascii "Easy Listening", ascii "Soft"),
  (ascii "Light Classical", ascii "Nostalgia"),
  (ascii "Serious Classical", ascii "Jazz"),
  (ascii "Other Music", ascii "Classical")]

/-- The default PTY_TABLE, rows 16 to 31 (R289). -/
def ptyNamesHigh : Vector (List Byte × List Byte) 16 := #v[
  (ascii "Weather", ascii "Rhythm & Blues"),
  (ascii "Finance", ascii "Soft Rhythm & Blues"),
  (ascii "Children's Programmes", ascii "Language"),
  (ascii "Social Affairs", ascii "Religious Music"),
  (ascii "Religion", ascii "Religious Talk"),
  (ascii "Phone-In", ascii "Personality"),
  (ascii "Travel", ascii "Public"),
  (ascii "Leisure", ascii "College"),
  (ascii "Jazz Music", ascii "Spanish Talk"),
  (ascii "Country Music", ascii "Spanish Music"),
  (ascii "National Music", ascii "Hip Hop"),
  (ascii "Oldies Music", ascii "Unassigned"),
  (ascii "Folk Music", ascii "Unassigned"),
  (ascii "Documentary", ascii "Weather"),
  (ascii "Alarm Test", ascii "Emergency Test"),
  (ascii "Alarm", ascii "Emergency")]

/-- The default PTY_TABLE (R289). -/
def defaultPtyTable : Vector (List Byte × List Byte) 32 := ptyNamesLow ++ ptyNamesHigh

end Sys2Proof.Machine
end

