-- ==== Sys2Proof/Machine/Defaults.lean ====
section
/-! DEFINITION. The default values of the parameters (R6). -/

namespace Sys2Proof.Machine

/-- The default parameters of R6. -/
def defaultParams : Params where
  bitctrW := 32
  afListDepth := 64
  msgFifoBytes := 4096
  ptyTable := defaultPtyTable

end Sys2Proof.Machine
end

