-- ==== Sys2Proof/Machine/State.lean ====
section
/-! DEFINITION. The state of the core (R20 to R43), the events of its environment (R322 to R324), and reset. -/

namespace Sys2Proof.Machine

/-- `sync_state` (R22), with its reserved code. -/
inductive SyncState where
  | noSync
  | preSync
  | sync
  | reserved
  deriving DecidableEq, Repr

/-- An offset word, by its name in the source's priority order (R82). Its index is 0 to 4 in this order
(log 16). -/
inductive Offset where
  | a | b | c | d | cPrime
  deriving DecidableEq, Repr

/-- The BlockSynchronizer's state (R22 to R30). `bitCounter` and `lastCounter` are BITCTR_W bits wide and are kept
modulo 2^BITCTR_W (log 5); `lastOffset` takes exactly its legal values. -/
structure Synchronizer where
  syncState          : SyncState
  window             : BitVec 26
  bitCounter         : Nat
  lastOffset         : Offset
  lastCounter        : Nat
  blockBitCounter    : BitVec 5
  blockNumber        : BitVec 2
  blocksCounter      : BitVec 6
  wrongBlocksCounter : BitVec 6
  deriving DecidableEq, Repr

/-- The GroupAssembler's state (R31). -/
structure Assembler where
  group      : Vector Word 4
  goodCount  : BitVec 3
  inProgress : Bool
  deriving DecidableEq, Repr

/-- The MessageChannel's state: `msg_fifo`, head first, and `msg_drop_count` (R38). -/
structure Channel where
  fifo      : List Byte
  dropCount : BitVec 16
  deriving DecidableEq, Repr

/-- PTY_LOCALE (false is 0, RDS) and EMIT_RAW_GROUP as the last hard reset sampled them (R40). -/
structure Configuration where
  ptyLocale    : Bool
  emitRawGroup : Bool
  deriving DecidableEq, Repr

/-- The port layer: the configuration inputs as the environment holds them (R322), the clock edges that still see
`bit_ready = 0` (R324), and the held context reset (R323). -/
structure PortState where
  cfgPtyLocale    : Bool
  cfgEmitRawGroup : Bool
  busy            : Nat
  ctxHeld         : Bool
  deriving DecidableEq, Repr

/-- The input ports as one rising clock edge samples them (R322). -/
structure Edge where
  rst             : Bool
  ctxReset        : Bool
  bitValid        : Bool
  bitData         : Bool
  outReady        : Bool
  cfgPtyLocale    : Bool
  cfgEmitRawGroup : Bool
  deriving DecidableEq, Repr

/-- What the outside world does next (R324). `op` presents an operation's word; `drain` takes a byte from the output
queue; `cfgInputs` changes the configuration inputs (R40); `clock` is one rising edge with all input ports, which
expands to the events above in the order R320, R323 and R324 give. An `op` that carries a group is the model's own
(log 2). -/
inductive Event where
  | op (w : OpWord)
  | drain
  | cfgInputs (ptyLocale emitRawGroup : Bool)
  | clock (e : Edge)
  deriving DecidableEq, Repr

/-- The machine's state. `params` is fixed (R6, log 8). `inputs` and `freeCtr` are the model's own: the events still
to come (log 3) and the index of the next free value (log 9). -/
structure State where
  params       : Params
  conf         : Configuration
  synchronizer : Synchronizer
  assembler    : Assembler
  ctx          : StationContext
  chan         : Channel
  ports        : PortState
  inputs       : List Event
  freeCtr      : Nat
  deriving DecidableEq, Repr

/-- The core raises no exception and no step is aborted (R300, R306): there is no fault (log 17). -/
inductive Fault where
  deriving DecidableEq, Repr

/-- Why a step has no meaning. -/
inductive Refusal where
  /-- Raised by `exec` for an operation whose meaning is not written; no arm raises it. Safe. -/
  | notModelled (mnemonic : String)
  /-- Raised by the step on a `drain` event while the output queue is empty, which is not a possible event and which
  U16 says to refuse (R286, log 11). Safe. -/
  | drainOnEmptyQueue
  /-- Raised by the step when a parameter is outside the legal range of R6, which R6 says to refuse. Safe. -/
  | illegalParameters
  deriving DecidableEq, Repr

/-- The synchronizer after a hard reset (R321, R43). -/
def Synchronizer.reset : Synchronizer where
  syncState := .noSync
  window := 0
  bitCounter := 0
  lastOffset := .a
  lastCounter := 0
  blockBitCounter := 0
  blockNumber := 0
  blocksCounter := 0
  wrongBlocksCounter := 0

/-- The assembler after a hard reset (R321). The spec leaves `group` at any value; the model has 0 (log 4). -/
def Assembler.reset : Assembler where
  group := Vector.replicate 4 0
  goodCount := 0
  inProgress := false

/-- The channel after a hard reset (R321). -/
def Channel.reset : Channel where
  fifo := []
  dropCount := 0

/-- The machine right after a hard reset with the default parameters and both configuration inputs at 0 (R321, R6,
log 7), with nothing offered at its ports yet. -/
def State.reset : State where
  params := defaultParams
  conf := ⟨false, false⟩
  synchronizer := Synchronizer.reset
  assembler := Assembler.reset
  ctx := freshContext 0x0000#16
  chan := Channel.reset
  ports := ⟨false, false, 0, false⟩
  inputs := []
  freeCtr := 0

end Sys2Proof.Machine
end

