-- ==== Sys2Proof/Machine/Ops.lean ====
section
/-! DEFINITION. The shared operations: the components of State, bit sets and buffers, and the message channel. The core
has no memory, takes no exception and returns from none (R60, R300, R306), so no operation stands for those. -/

namespace Sys2Proof.Machine

/-! ## Writing one component -/

def State.setSynchronizer (s : State) (y : Synchronizer) : State := { s with synchronizer := y }

def State.setAssembler (s : State) (a : Assembler) : State := { s with assembler := a }

def State.setCtx (s : State) (c : StationContext) : State := { s with ctx := c }

def State.setChan (s : State) (c : Channel) : State := { s with chan := c }

def State.setInputs (s : State) (l : List Event) : State := { s with inputs := l }

/-! ## Bit sets -/

/-- `m[i] <- 1`. -/
def setBit {n : Nat} (m : BitVec n) (i : Nat) : BitVec n := m ||| BitVec.twoPow n i

/-- The number of consecutive set bits from bit 0, in 0..16 (R224). -/
def leadingOnes (m : BitVec 16) : Nat := ((List.range 16).takeWhile fun k => m.getLsbD k).length

/-! ## The message channel -/

/-- The message kinds (R280). -/
inductive MessageKind where
  | pi | ps | pty | flags | radioText | clocktime | alternateFrequencies | rawGroup
  deriving DecidableEq, Repr

/-- The kind's number (R280). -/
def MessageKind.code : MessageKind → Byte
  | .pi => 0
  | .ps => 1
  | .pty => 2
  | .flags => 3
  | .radioText => 4
  | .clocktime => 5
  | .alternateFrequencies => 6
  | .rawGroup => 7

/-- One output record (R280). -/
structure Message where
  kind    : MessageKind
  payload : List Byte
  deriving DecidableEq, Repr

/-- The frame of a message: kind, length high byte first, payload (R283, log 13). -/
def frame (m : Message) : List Byte :=
  m.kind.code :: BitVec.ofNat 8 (m.payload.length / 256) :: BitVec.ofNat 8 m.payload.length :: m.payload

/-- Count a dropped message, saturating at 0xFFFF (R285). -/
def countDrop (n : BitVec 16) : BitVec 16 := if n.toNat < 0xFFFF then n + 1 else n

/-- `Emit` (R292): queue the whole frame if it fits, else drop the whole message and count it (R284). -/
def emit (capacity : Nat) (c : Channel) (m : Message) : Channel :=
  if (frame m).length ≤ capacity - c.fifo.length then { c with fifo := c.fifo ++ frame m }
  else { c with dropCount := countDrop c.dropCount }

/-- The messages of one step, each judged on its own, in order (R287, R292). -/
def emitAll (capacity : Nat) (c : Channel) (ms : List Message) : Channel := ms.foldl (emit capacity) c

/-- `DRAIN` (R286): remove the head byte. -/
def drainByte (c : Channel) : Channel := { c with fifo := c.fifo.tail }

end Sys2Proof.Machine
end

