-- ==== Sys2Proof/Machine/Flags.lean ====
section
/-! DEFINITION. The seven flags of the station context (R33): their writes by group type 0 and the Flags message. -/

namespace Sys2Proof.Machine

/-- TP, TA and MS of a type 0 group (R190). -/
def writeTraffic (tp ta ms : Bool) (c : StationContext) : StationContext := { c with tp := tp, ta := ta, ms := ms }

/-- The one decoder-control flag that the segment address selects (R191). -/
def writeDecoderControl (s : BitVec 2) (di : Bool) (c : StationContext) : StationContext :=
  match s.toNat with
  | 0 => { c with dynamicPty := di }
  | 1 => { c with compressed := di }
  | 2 => { c with artificialHead := di }
  | _ => { c with monoStereo := di }

/-- '1' or '0' (R203). -/
def flagChar (b : Bool) : Byte := if b then 0x31#8 else 0x30#8

/-- The seven characters of the Flags message (R203). -/
def flagsText (c : StationContext) : List Byte :=
  [flagChar c.tp, flagChar c.ta, flagChar c.ms, flagChar c.monoStereo, flagChar c.artificialHead, flagChar c.compressed,
    flagChar c.dynamicPty]

end Sys2Proof.Machine
end

