-- ==== Sys2Proof/Machine/Operands.lean ====
section
/-! DEFINITION. Operand forms: where a segment's characters lie in the buffers (R60, R61), the writes of the buffers, and
the layouts of group 8A that no rule reads (R92). -/

namespace Sys2Proof.Machine

/-- Write two characters at slots `2s` and `2s+1` of the PS buffer (R192). -/
def writePs (buf : Vector Byte 8) (s : BitVec 2) (c0 c1 : Byte) : Vector Byte 8 :=
  (buf.setIfInBounds (2 * s.toNat) c0).setIfInBounds (2 * s.toNat + 1) c1

/-- The two characters stored for a PS segment (R34, R192). -/
def psChars (buf : Vector Byte 8) (s : BitVec 2) : Byte × Byte :=
  (buf[2 * s.toNat]'(by have := s.isLt; omega), buf[2 * s.toNat + 1]'(by have := s.isLt; omega))

/-- Write four characters at `4s .. 4s+3` of the RadioText buffer (R221). -/
def writeText4 (buf : Vector Byte 64) (s : BitVec 4) (c0 c1 c2 c3 : Byte) : Vector Byte 64 :=
  (((buf.setIfInBounds (4 * s.toNat) c0).setIfInBounds (4 * s.toNat + 1) c1).setIfInBounds (4 * s.toNat + 2) c2).setIfInBounds
    (4 * s.toNat + 3) c3

/-- Write two characters at `2s` and `2s+1` of the RadioText buffer (R222). -/
def writeText2 (buf : Vector Byte 64) (s : BitVec 4) (c0 c1 : Byte) : Vector Byte 64 :=
  (buf.setIfInBounds (2 * s.toNat) c0).setIfInBounds (2 * s.toNat + 1) c1

/-- A data word's bytes, high byte first (R64, R291). -/
def wordBytes (w : Word) : List Byte := [hiByte w, loByte w]

/-- The diversion bit D of a single-group 8A message (R92); no rule reads it (R262). -/
def tmcDiversion (m : TmcFields) : Bool := m.first

/-- The direction of a single or first 8A group (R92); no rule reads it. -/
def tmcDirection (m : TmcFields) : Bool := m.sg

/-- The extent of a single or first 8A group, block2[13:11] (R92); no rule reads it. -/
def tmcExtent (m : TmcFields) : BitVec 3 := (m.gsi ++ m.ff.extractLsb' 27 1).cast (by decide)

/-- The event code of a single or first 8A group, block2[10:0] (R92); no rule reads it. -/
def tmcEvent (m : TmcFields) : BitVec 11 := m.ff.extractLsb' 16 11

/-- The location code of a single or first 8A group, block 3 (R92); no rule reads it. -/
def tmcLocation (m : TmcFields) : Word := m.ff.extractLsb' 0 16

end Sys2Proof.Machine
end

