-- ==== Sys2Proof/Machine/Group.lean ====
section
/-! DEFINITION. What every decoded group does (R160 to R167): raw group, PI tracking, PTY, and then its handler. -/

namespace Sys2Proof.Machine

/-- What a handler answers: the context it leaves and the messages it emits, in order. -/
abbrev Handled := StationContext × List Message

/-- PI tracking (R161): a group with another PI replaces the whole context. -/
def trackPi (pi : Word) (c : StationContext) : StationContext := if pi != c.pi then freshContext pi else c

/-- The context a handler sees: after R161 and the PTY write of R164. -/
def enterContext (hd : Head) (c : StationContext) : StationContext := { trackPi hd.pi c with pty := hd.pty }

/-- The PI message (R163). -/
def piMessage (hd : Head) : Message := ⟨.pi, hex4U hd.pi⟩

/-- PTY_TABLE[pty][PTY_LOCALE] (R164). -/
def ptyName (p : Params) (k : Configuration) (pty : BitVec 5) : List Byte :=
  let row := p.ptyTable[pty.toNat]
  if k.ptyLocale then row.2 else row.1

/-- The PTY message (R164). -/
def ptyMessage (p : Params) (k : Configuration) (hd : Head) : Message := ⟨.pty, ptyName p k hd.pty⟩

/-- The RawGroup message (R165, R291), when enabled. -/
def rawMessages (k : Configuration) (g : GroupWords) : List Message :=
  if k.emitRawGroup then [⟨.rawGroup, wordBytes g.b0 ++ wordBytes g.b1 ++ wordBytes g.b2 ++ wordBytes g.b3⟩] else []

/-- The messages of a group before its handler's (R167). -/
def commonMessages (p : Params) (k : Configuration) (g : GroupWords) (hd : Head) : List Message :=
  rawMessages k g ++ [piMessage hd, ptyMessage p k hd]

/-- DECODE_GROUP(G) with the handler that its code selects (R160, R167). Messages are queued in order, in this
step (log 14). -/
def decodeWith (g : GroupWords) (hd : Head) (h : StationContext → Handled) (s : State) : State :=
  let r := h (enterContext hd s.ctx)
  (s.setCtx r.1).setChan
    (emitAll s.params.msgFifoBytes s.chan (commonMessages s.params s.conf g hd ++ r.2))

end Sys2Proof.Machine
end

