-- ==== Sys2Proof/Machine/BasicTuning.lean ====
section
/-! DEFINITION. Group type 0, basic tuning: programme-service name, alternate frequencies, flags (R190 to R206). -/

namespace Sys2Proof.Machine

/-! ## Programme-service name -/

/-- Whether a segment received before now carries other characters (R192). -/
def psChanged (s : BitVec 2) (c0 c1 : Byte) (c : StationContext) : Bool :=
  c.psSeen.getLsbD s.toNat && psChars c.psBuf s != (c0, c1)

/-- The PS segment update (R192). -/
def psUpdate (s : BitVec 2) (c0 c1 : Byte) (c : StationContext) : StationContext :=
  { c with
    psMask := if psChanged s c0 c1 c then 0 else setBit c.psMask s.toNat
    psBuf := writePs c.psBuf s c0 c1
    psSeen := setBit c.psSeen s.toNat }

/-- PS emission (R193). -/
def psMessages (c : StationContext) : List Message := if c.psMask == 0xF#4 then [⟨.ps, c.psBuf.toList⟩] else []

/-! ## Alternate frequencies -/

/-- One decoded frequency: kind, value in kHz, regional tag (R197). -/
structure AfEntry where
  lfmf     : Bool
  khz      : Nat
  regional : Bool
  deriving DecidableEq, Repr

/-- Whether R194 appends the pair: it is not the last entry. -/
def afAppends (p : Byte × Byte) (l : List (Byte × Byte)) : Bool := l.getLast? != some p

/-- The list after R194: a full list drops its oldest entry. -/
def afAppend (depth : Nat) (p : Byte × Byte) (l : List (Byte × Byte)) : List (Byte × Byte) :=
  if afAppends p l then (if l.length = depth then l.tail else l) ++ [p] else l

/-- A first row: `224 <= hi <= 249` (R196). -/
def isFirstRow (p : Byte × Byte) : Bool := decide (224 ≤ p.1.toNat) && decide (p.1.toNat ≤ 249)

/-- `VHF_KHZ(c) = 87600 + (c - 1) * 100` (R198), never negative. -/
def vhfKhz (c : Byte) : Nat := (87600 + ((c.toNat : Int) - 1) * 100).toNat

/-- An untagged or tagged VHF entry. -/
def vhfEntry (c : Byte) (regional : Bool) : AfEntry := ⟨false, vhfKhz c, regional⟩

/-- LF/MF conversion (R199): no entry for a code outside 1..134. -/
def lfmfEntries (c : Byte) : List AfEntry :=
  if 1 ≤ c.toNat ∧ c.toNat ≤ 15 then [⟨true, 153 + (c.toNat - 1) * 9, false⟩]
  else if 16 ≤ c.toNat ∧ c.toNat ≤ 134 then [⟨true, 531 + (c.toNat - 16) * 9, false⟩]
  else []

/-- The frequencies one row adds when `room` more are wanted, room at least 1 (R197, R199 to R201). -/
def rowEntries (special : Byte) (room : Nat) (row : Byte × Byte) : List AfEntry :=
  if row.1 == 250#8 then lfmfEntries row.2
  else if row.1 == special then [vhfEntry row.2 (decide (row.2.toNat < row.1.toNat))]
  else if row.2 == special then [vhfEntry row.1 (decide (row.2.toNat < row.1.toNat))]
  else vhfEntry row.1 false :: (if 1 < room then [vhfEntry row.2 false] else [])

/-- The walk of R197 over the rows after the first row. -/
def afWalk (n : Nat) (special : Byte) : List (Byte × Byte) → List AfEntry → List AfEntry
  | [], freqs => freqs
  | row :: rows, freqs =>
    if freqs.length < n then afWalk n special rows (freqs ++ rowEntries special (n - freqs.length) row) else freqs

/-- AF_DECODE (R196, R197). -/
def afDecode (l : List (Byte × Byte)) : Option (List AfEntry) :=
  match l.dropWhile fun p => !isFirstRow p with
  | [] => none
  | (hi, special) :: rows =>
    let n := hi.toNat - 224
    if n = 0 then none
    else
      let freqs := afWalk n special rows [vhfEntry special false]
      if freqs.length = n then some freqs else none

/-- The text of one frequency (R202). -/
def afEntryText (e : AfEntry) : List Byte :=
  (if e.lfmf then dec e.khz ++ ascii " kHz"
   else dec (e.khz / 1000) ++ ascii "." ++ dec (e.khz % 1000 / 100) ++ ascii " MHz") ++
  (if e.regional then ascii " (regional)" else [])

/-- AF_TEXT: the entries joined with comma and space (R202). -/
def afText (l : List AfEntry) : List Byte := (ascii ", ").intercalate (l.map afEntryText)

/-- The AlternateFrequencies message of a list (R195). -/
def afMessages (l : List (Byte × Byte)) : List Message :=
  match afDecode l with
  | none => []
  | some freqs => [⟨.alternateFrequencies, afText freqs⟩]

/-! ## Handlers -/

/-- The Flags message (R203). -/
def flagsMessage (c : StationContext) : Message := ⟨.flags, flagsText c⟩

/-- R190, R191 and R192, which both versions run. -/
def tuningUpdate (tp : Bool) (t : Tuning) (c0 c1 : Byte) (c : StationContext) : StationContext :=
  psUpdate t.seg c0 c1 (writeDecoderControl t.seg t.di (writeTraffic tp t.ta t.ms c))

/-- H_0A (R205), with the message order of R204. -/
def handle0A (depth : Nat) (tp : Bool) (t : Tuning) (afHi afLo c0 c1 : Byte) (c : StationContext) : Handled :=
  let u := tuningUpdate tp t c0 c1 c
  let l := afAppend depth (afHi, afLo) u.afList
  ({ u with afList := l },
    psMessages u ++ (if afAppends (afHi, afLo) u.afList then afMessages l else []) ++ [flagsMessage u])

/-- H_0B (R206): 0A without the alternate frequencies. -/
def handle0B (tp : Bool) (t : Tuning) (c0 c1 : Byte) (c : StationContext) : Handled :=
  let u := tuningUpdate tp t c0 c1 c
  (u, psMessages u ++ [flagsMessage u])

/-- Decoding a group 0A (R160, R205). -/
def runGroup0A (hd : Head) (tune : Tuning) (afHi afLo c0 c1 : Byte) (s : State) : State :=
  decodeWith (group0AWords hd tune afHi afLo c0 c1) hd (handle0A s.params.afListDepth hd.tp tune afHi afLo c0 c1) s

/-- Decoding a group 0B (R160, R206). -/
def runGroup0B (hd : Head) (tune : Tuning) (piRepeat : Word) (c0 c1 : Byte) (s : State) : State :=
  decodeWith (group0BWords hd tune piRepeat c0 c1) hd (handle0B hd.tp tune c0 c1) s

/-- GROUP_0A (R205). -/
def execGroup0A (hd : Head) (tune : Tuning) (afHi afLo c0 c1 : Byte) (s : State) : Host.Outcome State Fault Refusal :=
  .next (runGroup0A hd tune afHi afLo c0 c1 s)

/-- GROUP_0B (R206). -/
def execGroup0B (hd : Head) (tune : Tuning) (piRepeat : Word) (c0 c1 : Byte) (s : State) :
    Host.Outcome State Fault Refusal :=
  .next (runGroup0B hd tune piRepeat c0 c1 s)

end Sys2Proof.Machine
end

