-- ==== Sys2Proof/Machine/ClockTime.lean ====
section
/-! DEFINITION. Group 4A, clock time (R240 to R244). -/

namespace Sys2Proof.Machine

/-- A Gregorian date. -/
structure Date where
  day   : Nat
  month : Nat
  year  : Nat
  deriving DecidableEq, Repr

/-- MJD_TO_DATE (R242), for MJD at least 15079. Every intermediate value is then non-negative (R314). -/
def mjdToDate (mjd : Nat) : Date :=
  let j : Int := mjd
  let y := (100 * j - 1507820) / 36525
  let ya := (1461 * y) / 4
  let m := (10000 * (j - 14956 - ya) - 1000) / 306001
  let ma := (306001 * m) / 10000
  let k : Int := if m = 14 ∨ m = 15 then 1 else 0
  { day := (j - 14956 - ya - ma).toNat, month := (m - 1 - 12 * k).toNat, year := (1900 + y + k).toNat }

/-- CLOCK_TEXT (R243). -/
def clockText (d : Date) (c : ClockFields) : List Byte :=
  dec2 d.day ++ ascii "." ++ dec2 d.month ++ ascii "." ++ dec4 d.year ++ ascii ", " ++ dec2 c.hour.toNat ++ ascii ":" ++
  dec2 c.minute.toNat ++ ascii " (" ++ (if c.negative then ascii "-" else ascii "+") ++ dec (c.offset.toNat / 2) ++
  ascii "." ++ dec (5 * (c.offset.toNat % 2)) ++ ascii "h)"

/-- H_4A (R244): no message below MJD 15079 (R241); the context is left alone. -/
def handle4A (f : ClockFields) (c : StationContext) : Handled :=
  (c, if f.mjd.toNat < 15079 then [] else [⟨.clocktime, clockText (mjdToDate f.mjd.toNat) f⟩])

/-- Decoding a group 4A (R160, R244). -/
def runGroup4A (hd : Head) (clock : ClockFields) (s : State) : State :=
  decodeWith (group4AWords hd clock) hd (handle4A clock) s

/-- GROUP_4A (R244). -/
def execGroup4A (hd : Head) (clock : ClockFields) (s : State) : Host.Outcome State Fault Refusal :=
  .next (runGroup4A hd clock s)

end Sys2Proof.Machine
end

