-- ==== Sys2Proof/Machine/NoOpGroups.lean ====
section
/-! DEFINITION. The group types whose handler is a no-op (R168 to R184). -/

namespace Sys2Proof.Machine

/-- A no-op handler (R168). -/
def handleNoOp (c : StationContext) : Handled := (c, [])

/-- Decoding a group whose handler is a no-op (R160, R168). -/
def runNoOp (code : BitVec 5) (hd : Head) (u : Unread) (s : State) : State :=
  decodeWith (unreadWords code hd u) hd handleNoOp s

/-- GROUP_1A (R169). -/
def execGroup1A (hd : Head) (u : Unread) (s : State) : Host.Outcome State Fault Refusal := .next (runNoOp 2#5 hd u s)

/-- GROUP_1B (R169). -/
def execGroup1B (hd : Head) (u : Unread) (s : State) : Host.Outcome State Fault Refusal := .next (runNoOp 3#5 hd u s)

/-- GROUP_3A (R170). -/
def execGroup3A (hd : Head) (u : Unread) (s : State) : Host.Outcome State Fault Refusal := .next (runNoOp 6#5 hd u s)

/-- GROUP_3B (R171). -/
def execGroup3B (hd : Head) (u : Unread) (s : State) : Host.Outcome State Fault Refusal := .next (runNoOp 7#5 hd u s)

/-- GROUP_4B (R173). -/
def execGroup4B (hd : Head) (u : Unread) (s : State) : Host.Outcome State Fault Refusal := .next (runNoOp 9#5 hd u s)

/-- GROUP_5A (R174). -/
def execGroup5A (hd : Head) (u : Unread) (s : State) : Host.Outcome State Fault Refusal := .next (runNoOp 10#5 hd u s)

/-- GROUP_5B (R174). -/
def execGroup5B (hd : Head) (u : Unread) (s : State) : Host.Outcome State Fault Refusal := .next (runNoOp 11#5 hd u s)

/-- GROUP_6A (R175). -/
def execGroup6A (hd : Head) (u : Unread) (s : State) : Host.Outcome State Fault Refusal := .next (runNoOp 12#5 hd u s)

/-- GROUP_6B (R175). -/
def execGroup6B (hd : Head) (u : Unread) (s : State) : Host.Outcome State Fault Refusal := .next (runNoOp 13#5 hd u s)

/-- GROUP_7A (R176). -/
def execGroup7A (hd : Head) (u : Unread) (s : State) : Host.Outcome State Fault Refusal := .next (runNoOp 14#5 hd u s)

/-- GROUP_7B (R176). -/
def execGroup7B (hd : Head) (u : Unread) (s : State) : Host.Outcome State Fault Refusal := .next (runNoOp 15#5 hd u s)

/-- GROUP_8B (R177). -/
def execGroup8B (hd : Head) (u : Unread) (s : State) : Host.Outcome State Fault Refusal := .next (runNoOp 17#5 hd u s)

/-- GROUP_9A (R178). -/
def execGroup9A (hd : Head) (u : Unread) (s : State) : Host.Outcome State Fault Refusal := .next (runNoOp 18#5 hd u s)

/-- GROUP_9B (R178). -/
def execGroup9B (hd : Head) (u : Unread) (s : State) : Host.Outcome State Fault Refusal := .next (runNoOp 19#5 hd u s)

/-- GROUP_10A (R179). -/
def execGroup10A (hd : Head) (u : Unread) (s : State) : Host.Outcome State Fault Refusal := .next (runNoOp 20#5 hd u s)

/-- GROUP_10B (R179). -/
def execGroup10B (hd : Head) (u : Unread) (s : State) : Host.Outcome State Fault Refusal := .next (runNoOp 21#5 hd u s)

/-- GROUP_11A (R180). -/
def execGroup11A (hd : Head) (u : Unread) (s : State) : Host.Outcome State Fault Refusal := .next (runNoOp 22#5 hd u s)

/-- GROUP_11B (R180). -/
def execGroup11B (hd : Head) (u : Unread) (s : State) : Host.Outcome State Fault Refusal := .next (runNoOp 23#5 hd u s)

/-- GROUP_12A (R181). -/
def execGroup12A (hd : Head) (u : Unread) (s : State) : Host.Outcome State Fault Refusal := .next (runNoOp 24#5 hd u s)

/-- GROUP_12B (R181). -/
def execGroup12B (hd : Head) (u : Unread) (s : State) : Host.Outcome State Fault Refusal := .next (runNoOp 25#5 hd u s)

/-- GROUP_13A (R182). -/
def execGroup13A (hd : Head) (u : Unread) (s : State) : Host.Outcome State Fault Refusal := .next (runNoOp 26#5 hd u s)

/-- GROUP_13B (R182). -/
def execGroup13B (hd : Head) (u : Unread) (s : State) : Host.Outcome State Fault Refusal := .next (runNoOp 27#5 hd u s)

/-- GROUP_14A (R183). -/
def execGroup14A (hd : Head) (u : Unread) (s : State) : Host.Outcome State Fault Refusal := .next (runNoOp 28#5 hd u s)

/-- GROUP_14B (R183). -/
def execGroup14B (hd : Head) (u : Unread) (s : State) : Host.Outcome State Fault Refusal := .next (runNoOp 29#5 hd u s)

/-- GROUP_15A (R184). -/
def execGroup15A (hd : Head) (u : Unread) (s : State) : Host.Outcome State Fault Refusal := .next (runNoOp 30#5 hd u s)

/-- GROUP_15B (R184). -/
def execGroup15B (hd : Head) (u : Unread) (s : State) : Host.Outcome State Fault Refusal := .next (runNoOp 31#5 hd u s)

end Sys2Proof.Machine
end

