-- ==== Sys2Proof/Machine/RadioText.lean ====
section
/-! DEFINITION. Group type 2, RadioText (R220 to R228). -/

namespace Sys2Proof.Machine

/-- The text A/B flag (R220): a toggle clears the mask alone. -/
def textToggle (f : Bool) (c : StationContext) : StationContext :=
  { c with rtMask := if f != c.rtAb then 0 else c.rtMask, rtAb := f }

/-- Mark the segment (R223). -/
def textMark (s : BitVec 4) (c : StationContext) : StationContext := { c with rtMask := setBit c.rtMask s.toNat }

/-- The carriage return that ends a text (R225). -/
def carriageReturn : Byte := 0x0D#8

/-- The prefix that the leading segments fill, w characters each (R224, R225). -/
def textPrefix (w : Nat) (c : StationContext) : List Byte := c.rtBuf.toList.take (w * leadingOnes c.rtMask)

/-- The text up to the first carriage return of the prefix, if there is one (R225). -/
def terminatedText (w : Nat) (c : StationContext) : Option (List Byte) :=
  if (textPrefix w c).contains carriageReturn then some ((textPrefix w c).takeWhile fun b => b != carriageReturn)
  else none

/-- H_2A (R227): R220, R221, R223, then R225 or R226. -/
def handle2A (ab : Bool) (s : BitVec 4) (c0 c1 c2 c3 : Byte) (c : StationContext) : Handled :=
  let t := textToggle ab c
  let u := textMark s { t with rtBuf := writeText4 t.rtBuf s c0 c1 c2 c3 }
  (u, match terminatedText 4 u with
    | some text => [⟨.radioText, text⟩]
    | none => if leadingOnes u.rtMask = 16 then [⟨.radioText, u.rtBuf.toList⟩] else [])

/-- H_2B (R228): R220, R222, R223, then R225. -/
def handle2B (ab : Bool) (s : BitVec 4) (c0 c1 : Byte) (c : StationContext) : Handled :=
  let t := textToggle ab c
  let u := textMark s { t with rtBuf := writeText2 t.rtBuf s c0 c1 }
  (u, match terminatedText 2 u with
    | some text => [⟨.radioText, text⟩]
    | none => [])

/-- Decoding a group 2A (R160, R227). -/
def runGroup2A (hd : Head) (ab : Bool) (seg : BitVec 4) (c0 c1 c2 c3 : Byte) (s : State) : State :=
  decodeWith (group2AWords hd ab seg c0 c1 c2 c3) hd (handle2A ab seg c0 c1 c2 c3) s

/-- Decoding a group 2B (R160, R228). -/
def runGroup2B (hd : Head) (ab : Bool) (seg : BitVec 4) (piRepeat : Word) (c0 c1 : Byte) (s : State) : State :=
  decodeWith (group2BWords hd ab seg piRepeat c0 c1) hd (handle2B ab seg c0 c1) s

/-- GROUP_2A (R227). -/
def execGroup2A (hd : Head) (ab : Bool) (seg : BitVec 4) (c0 c1 c2 c3 : Byte) (s : State) :
    Host.Outcome State Fault Refusal :=
  .next (runGroup2A hd ab seg c0 c1 c2 c3 s)

/-- GROUP_2B (R228). -/
def execGroup2B (hd : Head) (ab : Bool) (seg : BitVec 4) (piRepeat : Word) (c0 c1 : Byte) (s : State) :
    Host.Outcome State Fault Refusal :=
  .next (runGroup2B hd ab seg piRepeat c0 c1 s)

end Sys2Proof.Machine
end

