-- ==== Sys2Proof/Machine/TrafficMessage.lean ====
section
/-! DEFINITION. Group 8A, Traffic Message Channel (R260 to R266). -/

namespace Sys2Proof.Machine

/-- The write of a subsequent group (R264). The optional-content decode at gsi 0 has no effect (R265). -/
def tmcStore (m : TmcFields) (c : StationContext) : StationContext :=
  { c with
    tmcNoGroups := if m.sg then m.gsi else c.tmcNoGroups
    tmcFf := c.tmcFf.setIfInBounds m.gsi.toNat m.ff }

/-- H_8A (R266): nothing for tuning information and single groups (R261, R262); CI for a multi-group message; the free
format too when the group is not the first (R263, R264). -/
def handle8A (m : TmcFields) (c : StationContext) : Handled :=
  if m.t || m.f then (c, [])
  else
    let u := { c with tmcCi := m.ci }
    if m.first then (u, []) else (tmcStore m u, [])

/-- Decoding a group 8A (R160, R266). -/
def runGroup8A (hd : Head) (tmc : TmcFields) (s : State) : State := decodeWith (group8AWords hd tmc) hd (handle8A tmc) s

/-- GROUP_8A (R266). -/
def execGroup8A (hd : Head) (tmc : TmcFields) (s : State) : Host.Outcome State Fault Refusal :=
  .next (runGroup8A hd tmc s)

end Sys2Proof.Machine
end

