-- ==== Sys2Proof/Machine/DecodeGroup.lean ====
section
/-! DEFINITION. DECODE_GROUP on a group's four words: the dispatch of R166 on the map of R88. -/

namespace Sys2Proof.Machine

/-- The effect of decoding the group an operation stands for. The first four operations are no groups and
`decodeGroup` answers none of them. -/
def runGroup (i : Instr) (s : State) : State :=
  match i with
  | .bit0 | .bit1 | .ctxReset | .hardReset => s
  | .group0A hd tune afHi afLo c0 c1 => runGroup0A hd tune afHi afLo c0 c1 s
  | .group0B hd tune piRepeat c0 c1 => runGroup0B hd tune piRepeat c0 c1 s
  | .group2A hd ab seg c0 c1 c2 c3 => runGroup2A hd ab seg c0 c1 c2 c3 s
  | .group2B hd ab seg piRepeat c0 c1 => runGroup2B hd ab seg piRepeat c0 c1 s
  | .group4A hd clock => runGroup4A hd clock s
  | .group8A hd tmc => runGroup8A hd tmc s
  | .group1A hd u => runNoOp 2#5 hd u s
  | .group1B hd u => runNoOp 3#5 hd u s
  | .group3A hd u => runNoOp 6#5 hd u s
  | .group3B hd u => runNoOp 7#5 hd u s
  | .group4B hd u => runNoOp 9#5 hd u s
  | .group5A hd u => runNoOp 10#5 hd u s
  | .group5B hd u => runNoOp 11#5 hd u s
  | .group6A hd u => runNoOp 12#5 hd u s
  | .group6B hd u => runNoOp 13#5 hd u s
  | .group7A hd u => runNoOp 14#5 hd u s
  | .group7B hd u => runNoOp 15#5 hd u s
  | .group8B hd u => runNoOp 17#5 hd u s
  | .group9A hd u => runNoOp 18#5 hd u s
  | .group9B hd u => runNoOp 19#5 hd u s
  | .group10A hd u => runNoOp 20#5 hd u s
  | .group10B hd u => runNoOp 21#5 hd u s
  | .group11A hd u => runNoOp 22#5 hd u s
  | .group11B hd u => runNoOp 23#5 hd u s
  | .group12A hd u => runNoOp 24#5 hd u s
  | .group12B hd u => runNoOp 25#5 hd u s
  | .group13A hd u => runNoOp 26#5 hd u s
  | .group13B hd u => runNoOp 27#5 hd u s
  | .group14A hd u => runNoOp 28#5 hd u s
  | .group14B hd u => runNoOp 29#5 hd u s
  | .group15A hd u => runNoOp 30#5 hd u s
  | .group15B hd u => runNoOp 31#5 hd u s

/-- DECODE_GROUP(G) (R160): decode the header, dispatch on the code (R166). -/
def decodeGroupOp (g : GroupWords) (s : State) : State := runGroup (decodeGroup g) s

end Sys2Proof.Machine
end

