-- ==== Sys2Proof/Machine/Assembly.lean ====
section
/-! DEFINITION. The GroupAssembler (R150 to R156). -/

namespace Sys2Proof.Machine

/-- Clear the assembly: `assembly_in_progress <- 0`, `good_count <- 0` (R125, R151, R152, R154, R172). -/
def Assembler.clear (a : Assembler) : Assembler := { a with goodCount := 0, inProgress := false }

/-- Start on a valid block 0 (R150). -/
def Assembler.start (d : Word) (a : Assembler) : Assembler :=
  { group := a.group.setIfInBounds 0 d, goodCount := 1, inProgress := true }

/-- Store a valid later block (R153). -/
def Assembler.store (p : BitVec 2) (d : Word) (a : Assembler) : Assembler :=
  { a with group := a.group.setIfInBounds p.toNat d, goodCount := a.goodCount + 1 }

/-- The group's four words. -/
def Assembler.words (a : Assembler) : GroupWords := ⟨a.group[0], a.group[1], a.group[2], a.group[3]⟩

/-- R153, and R154 when it has made `good_count = 4`: clear the assembly and decode the group in this same step. -/
def storeBlock (p : BitVec 2) (d : Word) (s : State) : State :=
  let a := s.assembler.store p d
  if a.goodCount.toNat = 4 then decodeGroupOp a.words (s.setAssembler a.clear) else s.setAssembler a

/-- `ASSEMBLE(p, d, good)` (R156). -/
def assemble (p : BitVec 2) (d : Word) (good : Bool) (s : State) : State :=
  if p == 0#2 then s.setAssembler (if good then s.assembler.start d else s.assembler.clear)
  else if s.assembler.inProgress then (if good then storeBlock p d s else s.setAssembler s.assembler.clear)
  else s

end Sys2Proof.Machine
end

