-- ==== Sys2Proof/Machine/Control.lean ====
section
/-! DEFINITION. The two resets (R172, R320). -/

namespace Sys2Proof.Machine

/-- CTX_RESET (R172): a fresh context with PI 0x0000, and no assembly. -/
def ctxResetStep (s : State) : State := (s.setCtx (freshContext 0x0000#16)).setAssembler s.assembler.clear

/-- HARD_RESET (R320, R321): every element takes its reset value, the configuration inputs are sampled, and a step in
progress and a held context reset are abandoned. The parameters, the inputs and the model's counter are not the
core's to reset. -/
def hardResetStep (s : State) : State :=
  { s with
    conf := ⟨s.ports.cfgPtyLocale, s.ports.cfgEmitRawGroup⟩
    synchronizer := Synchronizer.reset
    assembler := Assembler.reset
    ctx := freshContext 0x0000#16
    chan := Channel.reset
    ports := { s.ports with busy := 0, ctxHeld := false } }

/-- CTX_RESET (R172). -/
def execCtxReset (s : State) : Host.Outcome State Fault Refusal := .next (ctxResetStep s)

/-- HARD_RESET (R320). -/
def execHardReset (s : State) : Host.Outcome State Fault Refusal := .next (hardResetStep s)

end Sys2Proof.Machine
end

