-- ==== Sys2Proof/Machine/Syndrome.lean ====
section
/-! DEFINITION. The SyndromeCalculator and the block check (R110 to R114), and the offset words (R82). -/

namespace Sys2Proof.Machine

/-- One shift of R110's 11-bit register: take in a bit, and subtract the generator 0x5B9 when bit 10 is set. -/
def crcStep (reg : BitVec 11) (b : Bool) : BitVec 11 :=
  let r := (reg <<< 1) ||| (BitVec.ofBool b).zeroExtend 11
  if r.getLsbD 10 then r ^^^ 0x5B9#11 else r

/-- The bits of a message, bit L-1 first (R110). -/
def messageBits {L : Nat} (m : BitVec L) : List Bool := (List.range L).reverse.map fun i => m.getLsbD i

/-- `SYNDROME(m, L)` (R110): the message bits and then ten zeros through the register. -/
def syndrome {L : Nat} (m : BitVec L) : BitVec 10 :=
  ((messageBits m ++ List.replicate 10 false).foldl crcStep 0).extractLsb' 0 10

/-- OFFSET_WORD (R82). -/
def Offset.word : Offset → BitVec 10
  | .a => 0x0FC
  | .b => 0x198
  | .c => 0x168
  | .d => 0x1B4
  | .cPrime => 0x350

/-- The offset index j (R82). -/
def Offset.index : Offset → Nat
  | .a => 0
  | .b => 1
  | .c => 2
  | .d => 3
  | .cPrime => 4

/-- OFFSET_POS (R82). -/
def Offset.pos : Offset → Nat
  | .a => 0
  | .b => 1
  | .c => 2
  | .d => 3
  | .cPrime => 2

/-- The table SYNDROME[j] (R39, R112). -/
def Offset.syndromeOf : Offset → BitVec 10
  | .a => 0x17F
  | .b => 0x00E
  | .c => 0x12F
  | .d => 0x297
  | .cPrime => 0x2EC

/-- The offsets in the source's priority order (R122). -/
def Offset.all : List Offset := [.a, .b, .c, .d, .cPrime]

/-- The offset word of index p, for a block position p (R113). -/
def offsetAt (p : BitVec 2) : Offset :=
  match p.toNat with
  | 0 => .a
  | 1 => .b
  | 2 => .c
  | _ => .d

/-- The data word of a 26-bit block, bits 25..10 (R80). -/
def dataWord (w : BitVec 26) : Word := w.extractLsb' 10 16

/-- The checkword of a 26-bit block, bits 9..0 (R80). -/
def checkWord (w : BitVec 26) : BitVec 10 := w.extractLsb' 0 10

/-- Whether a block carries offset j: `(checkword ^ OFFSET_WORD[j]) = SYNDROME(dataword, 16)` (R81, R113). -/
def carriesOffset (w : BitVec 26) (j : Offset) : Bool := (checkWord w ^^^ j.word) == syndrome (dataWord w)

/-- `BLOCK_CHECK(window, p)`'s verdict: at position 2 C or C′, elsewhere the position's own offset (R113). -/
def blockGood (w : BitVec 26) (p : BitVec 2) : Bool :=
  if p == 2#2 then carriesOffset w .c || carriesOffset w .cPrime else carriesOffset w (offsetAt p)

/-- The match scan of R122: the first offset whose syndrome is the window's. -/
def findOffset (w : BitVec 26) : Option Offset := Offset.all.find? fun j => syndrome w == j.syndromeOf

end Sys2Proof.Machine
end

