-- ==== Sys2Proof/Machine/Synchronize.lean ====
section
/-! DEFINITION. The BlockSynchronizer and the BIT operation (R120 to R135). -/

namespace Sys2Proof.Machine

/-- Shift a bit into the window (R121). -/
def shiftWindow (b : Bool) (y : Synchronizer) : Synchronizer :=
  { y with window := (y.window.extractLsb' 0 25 ++ BitVec.ofBool b).cast (by decide) }

/-- `bit_counter <- (bit_counter + 1) mod 2^BITCTR_W` (R131). -/
def tick (w : Nat) (y : Synchronizer) : Synchronizer := { y with bitCounter := (y.bitCounter + 1) % 2 ^ w }

/-! ## Search -/

/-- First match: record the candidate and enter PreSync (R123). -/
def firstMatch (j : Offset) (y : Synchronizer) : Synchronizer :=
  { y with lastOffset := j, lastCounter := y.bitCounter, syncState := .preSync }

/-- The block distance of two offsets' positions, 1 to 4 (R124). -/
def blockDistance (pl pj : Nat) : Nat := if pl ≥ pj then pj + 4 - pl else pj - pl

/-- `(bit_counter - last_counter) mod 2^BITCTR_W` (R124). -/
def bitDistance (w : Nat) (y : Synchronizer) : Nat := (y.bitCounter + (2 ^ w - y.lastCounter % 2 ^ w)) % 2 ^ w

/-- Whether the pairing of the candidate with a match on j passes the distance test (R124). -/
def pairs (w : Nat) (j : Offset) (y : Synchronizer) : Bool :=
  blockDistance y.lastOffset.pos j.pos * 26 == bitDistance w y

/-- The synchronizer's part of ENTER_SYNC(j) (R125); the next position comes from the offset's index, as the source
states it. -/
def lock (j : Offset) (y : Synchronizer) : Synchronizer :=
  { y with
    wrongBlocksCounter := 0
    blocksCounter := 0
    blockBitCounter := 0
    blockNumber := BitVec.ofNat 2 (j.index + 1)
    syncState := .sync }

/-- ENTER_SYNC(j) (R125). -/
def enterSync (j : Offset) (s : State) : State :=
  (s.setSynchronizer (lock j s.synchronizer)).setAssembler s.assembler.clear

/-- A failed pairing (R126). -/
def dropPairing (y : Synchronizer) : Synchronizer := { y with syncState := .noSync }

/-- SEARCH (R122 to R126); the reserved state searches as NoSync does (R132). -/
def search (s : State) : State :=
  match findOffset s.synchronizer.window with
  | none => s
  | some j =>
    if s.synchronizer.syncState = .preSync then
      if pairs s.params.bitctrW j s.synchronizer then enterSync j s
      else s.setSynchronizer (dropPairing s.synchronizer)
    else s.setSynchronizer (firstMatch j s.synchronizer)

/-! ## Track -/

/-- Count a bad block (R128). -/
def countBad (good : Bool) (y : Synchronizer) : Synchronizer :=
  if good then y else { y with wrongBlocksCounter := y.wrongBlocksCounter + 1 }

/-- Advance to the next block (R129). -/
def advanceBlock (y : Synchronizer) : Synchronizer :=
  { y with blockBitCounter := 0, blockNumber := y.blockNumber + 1, blocksCounter := y.blocksCounter + 1 }

/-- The 50-block quality check (R130). -/
def qualityCheck (y : Synchronizer) : Synchronizer :=
  if y.blocksCounter.toNat = 50 then
    { y with
      syncState := if 35 < y.wrongBlocksCounter.toNat then .noSync else y.syncState
      blocksCounter := 0
      wrongBlocksCounter := 0 }
  else y

/-- BLOCK_END: R128, R133, R129, R130, in that order. -/
def blockEnd (s : State) : State :=
  let w := s.synchronizer.window
  let p := s.synchronizer.blockNumber
  let good := blockGood w p
  let t := assemble p (dataWord w) good (s.setSynchronizer (countBad good s.synchronizer))
  t.setSynchronizer (qualityCheck (advanceBlock t.synchronizer))

/-- Count a bit of the current block (R127). -/
def countBit (y : Synchronizer) : Synchronizer := { y with blockBitCounter := y.blockBitCounter + 1 }

/-- TRACK (R127). -/
def track (s : State) : State :=
  if s.synchronizer.blockBitCounter.toNat < 25 then
    s.setSynchronizer (countBit s.synchronizer)
  else blockEnd s

/-- The state after the shift of R121. -/
def shifted (b : Bool) (s : State) : State := s.setSynchronizer (shiftWindow b s.synchronizer)

/-- What a bit does between its shift and the count (R120). -/
def syncStep (s : State) : State :=
  match s.synchronizer.syncState with
  | .sync => track s
  | .noSync => search s
  | .preSync => search s
  | .reserved => search s

/-- `BIT(b)` (R120). -/
def bitStep (b : Bool) (s : State) : State :=
  let t := syncStep (shifted b s)
  t.setSynchronizer (tick t.params.bitctrW t.synchronizer)

/-- BIT0 (R120). -/
def execBit0 (s : State) : Host.Outcome State Fault Refusal := .next (bitStep false s)

/-- BIT1 (R120). -/
def execBit1 (s : State) : Host.Outcome State Fault Refusal := .next (bitStep true s)

end Sys2Proof.Machine
end

