-- ==== Sys2Proof/Machine/Dispatch.lean ====
section
/-! DEFINITION. One arm per operation. -/

namespace Sys2Proof.Machine

def exec (i : Instr) (s : State) : Host.Outcome State Fault Refusal :=
  match i with
  | .bit0 => Sys2Proof.Machine.execBit0 s
  | .bit1 => Sys2Proof.Machine.execBit1 s
  | .ctxReset => Sys2Proof.Machine.execCtxReset s
  | .hardReset => Sys2Proof.Machine.execHardReset s
  | .group0A hd tune afHi afLo c0 c1 => Sys2Proof.Machine.execGroup0A hd tune afHi afLo c0 c1 s
  | .group0B hd tune piRepeat c0 c1 => Sys2Proof.Machine.execGroup0B hd tune piRepeat c0 c1 s
  | .group1A hd u => Sys2Proof.Machine.execGroup1A hd u s
  | .group1B hd u => Sys2Proof.Machine.execGroup1B hd u s
  | .group2A hd ab seg c0 c1 c2 c3 => Sys2Proof.Machine.execGroup2A hd ab seg c0 c1 c2 c3 s
  | .group2B hd ab seg piRepeat c0 c1 => Sys2Proof.Machine.execGroup2B hd ab seg piRepeat c0 c1 s
  | .group3A hd u => Sys2Proof.Machine.execGroup3A hd u s
  | .group3B hd u => Sys2Proof.Machine.execGroup3B hd u s
  | .group4A hd clock => Sys2Proof.Machine.execGroup4A hd clock s
  | .group4B hd u => Sys2Proof.Machine.execGroup4B hd u s
  | .group5A hd u => Sys2Proof.Machine.execGroup5A hd u s
  | .group5B hd u => Sys2Proof.Machine.execGroup5B hd u s
  | .group6A hd u => Sys2Proof.Machine.execGroup6A hd u s
  | .group6B hd u => Sys2Proof.Machine.execGroup6B hd u s
  | .group7A hd u => Sys2Proof.Machine.execGroup7A hd u s
  | .group7B hd u => Sys2Proof.Machine.execGroup7B hd u s
  | .group8A hd tmc => Sys2Proof.Machine.execGroup8A hd tmc s
  | .group8B hd u => Sys2Proof.Machine.execGroup8B hd u s
  | .group9A hd u => Sys2Proof.Machine.execGroup9A hd u s
  | .group9B hd u => Sys2Proof.Machine.execGroup9B hd u s
  | .group10A hd u => Sys2Proof.Machine.execGroup10A hd u s
  | .group10B hd u => Sys2Proof.Machine.execGroup10B hd u s
  | .group11A hd u => Sys2Proof.Machine.execGroup11A hd u s
  | .group11B hd u => Sys2Proof.Machine.execGroup11B hd u s
  | .group12A hd u => Sys2Proof.Machine.execGroup12A hd u s
  | .group12B hd u => Sys2Proof.Machine.execGroup12B hd u s
  | .group13A hd u => Sys2Proof.Machine.execGroup13A hd u s
  | .group13B hd u => Sys2Proof.Machine.execGroup13B hd u s
  | .group14A hd u => Sys2Proof.Machine.execGroup14A hd u s
  | .group14B hd u => Sys2Proof.Machine.execGroup14B hd u s
  | .group15A hd u => Sys2Proof.Machine.execGroup15A hd u s
  | .group15B hd u => Sys2Proof.Machine.execGroup15B hd u s

end Sys2Proof.Machine
end

