-- ==== Sys2Proof/Machine/Ports.lean ====
section
/-! DEFINITION. The ports (R286, R322 to R324): the outputs, one clock edge's expansion into events, and the fetch of the
next operation from the environment's events. -/

namespace Sys2Proof.Machine

/-! ## Outputs -/

/-- The 2-bit code of `sync_state` (R22). -/
def SyncState.code : SyncState → BitVec 2
  | .noSync => 0b00
  | .preSync => 0b01
  | .sync => 0b10
  | .reserved => 0b11

/-- `st_sync_state` (R41). -/
def stSyncState (s : State) : BitVec 2 := s.synchronizer.syncState.code

/-- `st_block_number` (R41). -/
def stBlockNumber (s : State) : BitVec 2 := s.synchronizer.blockNumber

/-- `st_blocks` (R41). -/
def stBlocks (s : State) : BitVec 6 := s.synchronizer.blocksCounter

/-- `st_wrong_blocks` (R41). -/
def stWrongBlocks (s : State) : BitVec 6 := s.synchronizer.wrongBlocksCounter

/-- `st_msg_drops` (R41). -/
def stMsgDrops (s : State) : BitVec 16 := s.chan.dropCount

/-- `bit_ready`, given the reset input: low under reset and while a step is in progress (R320, R324). -/
def bitReady (rst : Bool) (s : State) : Bool := !rst && s.ports.busy == 0

/-- `out_valid`, given the reset input: the queue is not empty, no step is in progress, no reset (R286, R320, R324). -/
def outValid (rst : Bool) (s : State) : Bool := !rst && s.ports.busy == 0 && !s.chan.fifo.isEmpty

/-- `out_data` (R286): the head byte, while there is one. DESIGN CHOICE (log 18): the spec gives `out_data` only while
`out_valid` is 1; the model shows the head byte during a step or a reset too, and no byte when the queue is empty. Unsafe. -/
def outData (s : State) : Option Byte := s.chan.fifo.head?

/-! ## One clock edge -/

/-- The length of `BIT` step number n in cycles: 1 to MAX_STEP_CYCLES, otherwise free (R324, R326, log 9). -/
def stepCycles (n : Nat) : Nat := 1 + Config.freeStepLength n % (Config.maxStepCyclesLessOne + 1)

/-- The word of a context reset request. -/
def ctxResetWord : OpWord := .ctxResetPort 1#1

/-- The word of a hard reset request. -/
def hardResetWord : OpWord := .rstPort 1#1

/-- The word of an offered bit. -/
def bitWord (b : Bool) : OpWord := .bitPort (BitVec.ofBool b)

/-- The events a rising edge stands for, in order: a hard reset alone (R320); while a step is in progress, the held
context reset when the step ends (R323); else a context reset, then the consumer's byte, then the bit (R323, R324,
R286, log 10). -/
def edgeEvents (e : Edge) (s : State) : List Event :=
  if e.rst then [.op hardResetWord]
  else if 1 < s.ports.busy then []
  else if s.ports.busy = 1 then (if s.ports.ctxHeld || e.ctxReset then [.op ctxResetWord] else [])
  else
    (if s.ports.ctxHeld || e.ctxReset then [.op ctxResetWord] else []) ++
    (if outValid false s && e.outReady then [.drain] else []) ++
    (if e.bitValid then [.op (bitWord e.bitData)] else [])

/-- The port layer after the edge: the configuration inputs as sampled, and, unless it is a reset, the step in progress
and the held request (R323, R324). -/
def edgePorts (e : Edge) (s : State) : PortState where
  cfgPtyLocale := e.cfgPtyLocale
  cfgEmitRawGroup := e.cfgEmitRawGroup
  busy :=
    if e.rst then s.ports.busy
    else if s.ports.busy = 0 then (if e.bitValid then stepCycles s.freeCtr else 0)
    else s.ports.busy - 1
  ctxHeld := if e.rst then s.ports.ctxHeld else decide (1 < s.ports.busy) && (s.ports.ctxHeld || e.ctxReset)

/-- Whether the edge takes a bit: the accepting edge of R324. -/
def edgeTakesBit (e : Edge) (s : State) : Bool := bitReady e.rst s && e.bitValid

/-- One rising edge, its events put before those still to come. -/
def clockEdge (e : Edge) (s : State) : State :=
  { s with
    ports := edgePorts e s
    inputs := edgeEvents e s ++ s.inputs
    freeCtr := if edgeTakesBit e s then s.freeCtr + 1 else s.freeCtr }

/-! ## Fetch -/

/-- What the next event asks of the machine. -/
inductive Fetched where
  /-- No operation is performed; the machine goes on in this state. -/
  | settled (s : State)
  /-- An operation, and the state with its event taken from the inputs. -/
  | run (i : Instr) (s : State)
  /-- No meaning. -/
  | refuse (r : Refusal)
  deriving DecidableEq, Repr

/-- The meaning of one event, in the state that no longer lists it. A request line at 0 requests nothing
(R311, log 15). -/
def fetchEvent (e : Event) (s : State) : Fetched :=
  match e with
  | .op w =>
    match decode w with
    | .ok i => .run i s
    | .error _ => .settled s
  | .drain => if s.chan.fifo.isEmpty then .refuse .drainOnEmptyQueue else .settled (s.setChan (drainByte s.chan))
  | .cfgInputs l r => .settled { s with ports := { s.ports with cfgPtyLocale := l, cfgEmitRawGroup := r } }
  | .clock e => .settled (clockEdge e s)

/-- The next thing to do. Illegal parameters have no meaning (R6); with nothing offered every element holds its value
(R311). -/
def fetch (s : State) : Fetched :=
  if s.params.legal then
    match s.inputs with
    | [] => .settled s
    | e :: rest => fetchEvent e (s.setInputs rest)
  else .refuse .illegalParameters

end Sys2Proof.Machine
end

