-- ==== Sys2Proof/Machine/Step.lean ====
section
/-! DEFINITION. One step: the next event of the environment, and the operation it carries. -/

namespace Sys2Proof.Machine

/-- One event, applied atomically (R13, R324). -/
def step (s : State) : Host.Outcome State Fault Refusal :=
  match fetch s with
  | .settled t => .next t
  | .run i t => exec i t
  | .refuse r => .refused r

/-- The state with the table's word presented as its next event (log 1, log 3). -/
def State.withFetchWord (s : State) (nbits w : Nat) : State := s.setInputs (.op (tableOpWord nbits w) :: s.inputs)

end Sys2Proof.Machine
end

