-- ==== Sys2Proof/Safety.lean ====
section
/-! DEFINITION. What claims call a good state: the legal values of the state elements between steps. -/

namespace Sys2Proof.Machine

/-- The synchronizer's legal values between steps (R22, R24, R26 to R30): the reserved state is not there, the bit
counters fit BITCTR_W bits, a block has at most 25 bits counted, and a quality window counts at most 49 blocks, the
wrong ones among them. -/
structure Synchronizer.Legal (w : Nat) (y : Synchronizer) : Prop where
  notReserved : y.syncState ≠ .reserved
  bitCounter  : y.bitCounter < 2 ^ w
  lastCounter : y.lastCounter < 2 ^ w
  blockBits   : y.blockBitCounter.toNat ≤ 25
  blocks      : y.blocksCounter.toNat ≤ 49
  wrong       : y.wrongBlocksCounter.toNat ≤ y.blocksCounter.toNat

/-- The assembler's legal values between steps, against the next block's position (R31, R150 to R154): no assembly
waits at a block 0; one in progress at block p in Sync has stored exactly the p blocks before it; none in progress has
counted none. -/
structure Assembler.Legal (y : Synchronizer) (a : Assembler) : Prop where
  goodCount : a.goodCount.toNat ≤ 3
  idle      : a.inProgress = false → a.goodCount = 0
  stored    : y.syncState = .sync → a.inProgress = true → a.goodCount.toNat = y.blockNumber.toNat ∧ y.blockNumber ≠ 0

/-- The context's legal values (R36). -/
def StationContext.Legal (depth : Nat) (c : StationContext) : Prop := c.afList.length ≤ depth

/-- The queue holds at most its capacity (R38). -/
def Channel.Legal (capacity : Nat) (c : Channel) : Prop := c.fifo.length ≤ capacity

/-- The invariant of the core: legal parameters and every element in its legal range. -/
structure CoreInv (s : State) : Prop where
  params       : s.params.legal = true
  synchronizer : s.synchronizer.Legal s.params.bitctrW
  assembler    : s.assembler.Legal s.synchronizer
  ctx          : s.ctx.Legal s.params.afListDepth
  chan         : s.chan.Legal s.params.msgFifoBytes

/-- An event that the hardware's ports can produce: any but a group handed to the decoder (R303, log 2). -/
def Event.fromPorts : Event → Bool
  | .op (.group _) => false
  | .op (.bitPort _) => true
  | .op (.ctxResetPort _) => true
  | .op (.rstPort _) => true
  | .drain => true
  | .cfgInputs _ _ => true
  | .clock _ => true

/-- The operation of an input bit (R120). -/
def bitInstr (b : Bool) : Instr := if b then .bit1 else .bit0

/-- The window after one more bit: older bits move up, the oldest is lost (R121). -/
def windowAfter (b : Bool) (s : State) : BitVec 26 := BitVec.ofNat 26 (2 * s.synchronizer.window.toNat + b.toNat)

/-- The bit counter after one more bit (R131). -/
def countAfter (s : State) : Nat := (s.synchronizer.bitCounter + 1) % 2 ^ s.params.bitctrW

/-- A block as a sender forms it: data word d with offset j (R81). -/
def sentBlock (d : Word) (j : Offset) : BitVec 26 := (d ++ (syndrome d ^^^ j.word)).cast (by decide)

/-- The distance test of R124, said without its formula: some block distance of 1 to 4 leads from the candidate's
position to j's, and 26 bits for each of its blocks lie between the two matches. -/
def DistanceFits (j : Offset) (s : State) : Prop :=
  ∃ bd : Nat, 1 ≤ bd ∧ bd ≤ 4 ∧ (s.synchronizer.lastOffset.pos + bd) % 4 = j.pos % 4 ∧
    ((s.synchronizer.bitCounter : Int) - s.synchronizer.lastCounter) % (2 ^ s.params.bitctrW : Nat) = 26 * (bd : Int)

/-- The context a group's handler sees: the tracked one, or a fresh one for another PI, with the group's PTY (R161,
R164). -/
def enteredContext (g : GroupWords) (s : State) : StationContext :=
  let c := if g.b0 = s.ctx.pi then s.ctx else freshContext g.b0
  { c with pty := g.b1.extractLsb' 5 5 }

/-- What every group emits before its handler: RawGroup when enabled, PI, PTY (R163, R164, R165, R167). -/
def announced (g : GroupWords) (s : State) : List Message :=
  (if s.conf.emitRawGroup then
    [⟨.rawGroup, [hiByte g.b0, loByte g.b0, hiByte g.b1, loByte g.b1, hiByte g.b2, loByte g.b2, hiByte g.b3, loByte g.b3]⟩]
   else []) ++
  [⟨.pi, hex4U g.b0⟩,
   ⟨.pty, if s.conf.ptyLocale then s.params.ptyTable[(g.b1.extractLsb' 5 5).toNat].2
          else s.params.ptyTable[(g.b1.extractLsb' 5 5).toNat].1⟩]

/-- The queue after these messages. -/
def chanAfter (ms : List Message) (s : State) : Channel := emitAll s.params.msgFifoBytes s.chan ms

/-- The payload bounds of R288 for the default PTY table. -/
def payloadWithin (m : Message) : Prop :=
  match m.kind with
  | .pi => m.payload.length = 4
  | .ps => m.payload.length = 8
  | .pty => 4 ≤ m.payload.length ∧ m.payload.length ≤ 21
  | .flags => m.payload.length = 7
  | .radioText => m.payload.length ≤ 64
  | .clocktime => 25 ≤ m.payload.length ∧ m.payload.length ≤ 26
  | .alternateFrequencies => 8 ≤ m.payload.length ∧ m.payload.length ≤ 548
  | .rawGroup => m.payload.length = 8

/-- Two states that differ at most in group words the running assembly has not stored (U2). -/
def SameButStaleWords (s t : State) : Prop :=
  ∃ v : Vector Word 4, t = s.setAssembler { s.assembler with group := v } ∧
    (s.assembler.inProgress = true → ∀ k : Fin 4, k.val < s.assembler.goodCount.toNat → v[k] = s.assembler.group[k])

/-- k steps, stopping at the first refusal. -/
def steps : Nat → State → Host.Outcome State Fault Refusal
  | 0, s => .next s
  | k + 1, s =>
    match step s with
    | .next t => steps k t
    | o => o

/-- MAX_STEP_CYCLES (R6, log 9). -/
def maxStepCycles : Nat := Config.maxStepCyclesLessOne + 1

end Sys2Proof.Machine
end

