-- ==== Sys2Proof/Certificates/Slice0/Obligations.lean ====
section
/-! DEFINITION. The statements about the core, in the order of the spec's rules. -/

open Sys2Proof Sys2Proof.Machine

/-! ## Encoding (30_encoding.md) -/

/-- Every operation's word is well formed and decodes to that operation, at every value of every field. -/
def Obligations.DecodeOfEncodeIsIdentity : Prop :=
  ∀ i : Instr, (encode i).wellFormed = true ∧ decode (encode i) = .ok i

/-- Every well-formed word, every group among them, decodes, and encodes back bit for bit; every other word, a request line
at 0, is rejected, which is the model's reading of a low line (log 15). -/
def Obligations.EncodeOfDecodeIsIdentity : Prop :=
  ∀ w : OpWord,
    (w.wellFormed = true → ∃ i, decode w = .ok i ∧ encode i = w) ∧
    (w.wellFormed = false → ∃ e, decode w = .error e)

/-- The group-type code 2t + v of block 1 selects the row of the opcode table whose match is that code in bits 15..11. -/
def Obligations.GroupTypeCodeSelectsTheRow : Prop :=
  ∀ g : GroupWords, ∃ i, decode (.group g) = .ok i ∧
    tableRow i = ⟨.groupHeader, 0xF800, 2048 * (2 * (g.b1.extractLsb' 12 4).toNat + (g.b1.extractLsb' 11 1).toNat)⟩

/-- Words of the spec's own vectors and programs (P1, P2, V-AF-1, V-CLK-7, V-TMC-1, V-DIS-2) and the port words. -/
def Obligations.SampleWordsDecode : Prop :=
  decode (.bitPort 0#1) = .ok .bit0 ∧ decode (.bitPort 1#1) = .ok .bit1 ∧
  decode (.ctxResetPort 1#1) = .ok .ctxReset ∧ decode (.rstPort 1#1) = .ok .hardReset ∧
  decode (.group ⟨0xD318#16, 0x0D4B#16, 0xD318#16, 0x4453#16⟩) =
    .ok (.group0B ⟨0xD318#16, true, 10#5⟩ ⟨false, true, false, 3#2⟩ 0xD318#16 0x44#8 0x53#8) ∧
  decode (.group ⟨0xD318#16, 0x0000#16, 0xE201#16, 0x2020#16⟩) =
    .ok (.group0A ⟨0xD318#16, false, 0#5⟩ ⟨false, false, false, 0#2⟩ 226#8 1#8 0x20#8 0x20#8) ∧
  decode (.group ⟨0xD318#16, 0x2001#16, 0x4F0D#16, 0x2020#16⟩) =
    .ok (.group2A ⟨0xD318#16, false, 0#5⟩ false 1#4 0x4F#8 0x0D#8 0x20#8 0x20#8) ∧
  decode (.group ⟨0xD318#16, 0x4001#16, 0xD4C0#16, 0x7142#16⟩) =
    .ok (.group4A ⟨0xD318#16, false, 0#5⟩ ⟨0#3, 60000#17, 7#5, 5#6, false, 2#5⟩) ∧
  decode (.group ⟨0xD318#16, 0x8005#16, 0x6123#16, 0x4567#16⟩) =
    .ok (.group8A ⟨0xD318#16, false, 0#5⟩ ⟨false, false, 5#3, false, true, 2#2, 0x1234567#28⟩) ∧
  decode (.group ⟨0xD318#16, 0xE060#16, 0x0001#16, 0x0002#16⟩) =
    .ok (.group14A ⟨0xD318#16, false, 3#5⟩ ⟨0#5, 0x0001#16, 0x0002#16⟩)

/-! ## Syndrome (40_syndrome.md) -/

/-- R110 with R11: the bit-serial division computes m(x)·x^10 modulo g(x); its corner cases and worked examples. The case
of a 16-bit message at length 26 is one that R110 itself derives. -/
def Obligations.SyndromeIsThePolynomialRemainder : Prop :=
  let poly : {k : Nat} → BitVec k → Polynomial (ZMod 2) :=
    fun {k} m => ∑ i ∈ Finset.range k, if m.getLsbD i then Polynomial.X ^ i else 0
  let g : Polynomial (ZMod 2) :=
    Polynomial.X ^ 10 + Polynomial.X ^ 8 + Polynomial.X ^ 7 + Polynomial.X ^ 5 + Polynomial.X ^ 4 + Polynomial.X ^ 3 + 1
  poly 0x5B9#11 = g ∧
  (∀ (L : Nat) (m : BitVec L), poly (syndrome m) = (poly m * Polynomial.X ^ 10) %ₘ g) ∧
  (∀ L : Nat, syndrome (0#L) = 0#10) ∧
  (∀ m : Word, syndrome (m.zeroExtend 26) = syndrome m) ∧
  syndrome 0x0001#16 = 441#10 ∧ syndrome 0x8000#16 = 119#10

/-- The law that R111 derives: linear in the message, and a block's syndrome by its two parts. -/
def Obligations.SyndromeIsLinear : Prop :=
  (∀ (L : Nat) (a b : BitVec L), syndrome (a ^^^ b) = syndrome a ^^^ syndrome b) ∧
  (∀ (d : Word) (c : BitVec 10),
    syndrome (d ++ c) = syndrome ((syndrome d ^^^ c).zeroExtend 26))

/-- What R112 derives: the table of offset syndromes, and that a block sent with offset j has j's syndrome, whatever its
data, so that the search finds j (R122). -/
def Obligations.SentBlockIsFoundByTheSearch : Prop :=
  (∀ j : Offset, syndrome (j.word.zeroExtend 26) = j.syndromeOf) ∧
  Offset.all.map (fun j => j.syndromeOf.toNat) = [383, 14, 303, 663, 748] ∧
  Offset.all.map (fun j => j.word.toNat) = [0x0FC, 0x198, 0x168, 0x1B4, 0x350] ∧
  Offset.all.map Offset.pos = [0, 1, 2, 3, 2] ∧
  ∀ (d : Word) (j : Offset), syndrome (sentBlock d j) = j.syndromeOf ∧ findOffset (sentBlock d j) = some j

/-- A block sent with offset j passes the check at j's position and at no other (R81, R113). -/
def Obligations.SentBlockPassesExactlyAtItsPosition : Prop :=
  ∀ (d : Word) (j : Offset) (p : BitVec 2), blockGood (sentBlock d j) p = true ↔ j.pos = p.toNat

/-- The equivalence that R114 derives: the check in Sync and the search in NoSync judge every window alike. -/
def Obligations.BlockCheckAgreesWithTheSearch : Prop :=
  ∀ (w : BitVec 26) (p : BitVec 2), blockGood w p = true ↔ ∃ j : Offset, j.pos = p.toNat ∧ syndrome w = j.syndromeOf

/-! ## The BIT operation (41_synchronizer.md) -/

/-- R121 and R131: in every state a bit is shifted into the window and counted, and what a match records is the count
before this step. -/
def Obligations.BitShiftsAndCounts : Prop :=
  ∀ (b : Bool) (s : State), ∃ t, exec (bitInstr b) s = .next t ∧
    t.synchronizer.window.extractLsb' 1 25 = s.synchronizer.window.extractLsb' 0 25 ∧
    t.synchronizer.window.getLsbD 0 = b ∧
    t.synchronizer.bitCounter = (s.synchronizer.bitCounter + 1) % 2 ^ s.params.bitctrW ∧
    (s.synchronizer.syncState ≠ .preSync → t.synchronizer.syncState = .preSync →
      t.synchronizer.lastCounter = s.synchronizer.bitCounter)

/-- What R62 derives: after 26 bits of any state's stream, the first of them is window[25] and the last window[0]. -/
def Obligations.WindowHoldsTheLast26Bits : Prop :=
  ∀ (s : State) (w : BitVec 26) (rest : List Event), s.params.legal = true →
    ∃ t, steps 26
        { s with inputs := (messageBits w).map (fun b => Event.op (.bitPort (BitVec.ofBool b))) ++ rest } = .next t ∧
      t.synchronizer.window = w ∧ t.inputs = rest

/-- R122 without a match, and R132's reserved state: nothing changes but the window and the count. -/
def Obligations.SearchWithoutMatchOnlyShifts : Prop :=
  ∀ (b : Bool) (s : State), s.synchronizer.syncState ≠ .sync →
    (∀ j : Offset, syndrome (windowAfter b s) ≠ j.syndromeOf) →
    exec (bitInstr b) s = .next { s with
      synchronizer := { s.synchronizer with window := windowAfter b s, bitCounter := countAfter s } }

/-- R123, and R132's reserved state, which searches as NoSync does: the first match is recorded and enters PreSync. -/
def Obligations.FirstMatchEntersPreSync : Prop :=
  ∀ (b : Bool) (s : State) (j : Offset),
    s.synchronizer.syncState = .noSync ∨ s.synchronizer.syncState = .reserved →
    syndrome (windowAfter b s) = j.syndromeOf →
    exec (bitInstr b) s = .next { s with
      synchronizer := { s.synchronizer with
        window := windowAfter b s, bitCounter := countAfter s,
        lastOffset := j, lastCounter := s.synchronizer.bitCounter, syncState := .preSync } }

/-- R124, R125, R126: a second match at the right distance enters Sync with every count and the assembly cleared and
the next position from the offset's index; at any other distance the pairing is dropped. -/
def Obligations.SecondMatchLocksOrDrops : Prop :=
  ∀ (b : Bool) (s : State) (j : Offset), s.synchronizer.syncState = .preSync →
    syndrome (windowAfter b s) = j.syndromeOf →
    (DistanceFits j s →
      exec (bitInstr b) s = .next { s with
        synchronizer := { s.synchronizer with
          window := windowAfter b s, bitCounter := countAfter s,
          wrongBlocksCounter := 0, blocksCounter := 0, blockBitCounter := 0,
          blockNumber := BitVec.ofNat 2 ((j.index + 1) % 4), syncState := .sync },
        assembler := { s.assembler with goodCount := 0, inProgress := false } }) ∧
    (¬ DistanceFits j s →
      exec (bitInstr b) s = .next { s with
        synchronizer := { s.synchronizer with
          window := windowAfter b s, bitCounter := countAfter s, syncState := .noSync } })

/-- R127 before a block is complete: nothing changes but the window and the two counts of bits. -/
def Obligations.SyncCountsTheBitsOfABlock : Prop :=
  ∀ (b : Bool) (s : State), s.synchronizer.syncState = .sync → s.synchronizer.blockBitCounter.toNat < 25 →
    exec (bitInstr b) s = .next { s with
      synchronizer := { s.synchronizer with
        window := windowAfter b s, bitCounter := countAfter s,
        blockBitCounter := s.synchronizer.blockBitCounter + 1 } }

/-- R128, R133, R129, R130: the 26th bit of a block checks it, counts it, hands it to the assembler and advances; every
50th block is a quality check. The counts are in their legal ranges (R29, R30). -/
def Obligations.BlockEndChecksCountsAndAdvances : Prop :=
  ∀ (b : Bool) (s : State), s.synchronizer.syncState = .sync → s.synchronizer.blockBitCounter.toNat = 25 →
    s.synchronizer.blocksCounter.toNat ≤ 49 → s.synchronizer.wrongBlocksCounter.toNat ≤ 49 →
    let p := s.synchronizer.blockNumber
    let good := blockGood (windowAfter b s) p
    let wrong := s.synchronizer.wrongBlocksCounter.toNat + (if good then 0 else 1)
    let handed := assemble p ((windowAfter b s).extractLsb' 10 16) good s
    ∃ t, exec (bitInstr b) s = .next t ∧
      t.synchronizer.window = windowAfter b s ∧ t.synchronizer.bitCounter = countAfter s ∧
      t.synchronizer.lastOffset = s.synchronizer.lastOffset ∧ t.synchronizer.lastCounter = s.synchronizer.lastCounter ∧
      t.synchronizer.blockBitCounter = 0 ∧ t.synchronizer.blockNumber.toNat = (p.toNat + 1) % 4 ∧
      (s.synchronizer.blocksCounter.toNat + 1 ≠ 50 →
        t.synchronizer.syncState = .sync ∧
        t.synchronizer.blocksCounter.toNat = s.synchronizer.blocksCounter.toNat + 1 ∧
        t.synchronizer.wrongBlocksCounter.toNat = wrong) ∧
      (s.synchronizer.blocksCounter.toNat + 1 = 50 →
        t.synchronizer.syncState = (if wrong > 35 then .noSync else .sync) ∧
        t.synchronizer.blocksCounter = 0 ∧ t.synchronizer.wrongBlocksCounter = 0) ∧
      t.assembler = handed.assembler ∧ t.ctx = handed.ctx ∧ t.chan = handed.chan ∧
      t.params = s.params ∧ t.conf = s.conf ∧ t.ports = s.ports ∧ t.inputs = s.inputs ∧ t.freeCtr = s.freeCtr

/-- The transitions that R135 derives, and no other. -/
def Obligations.SyncStateMovesAsTheTableSays : Prop :=
  ∀ (b : Bool) (s t : State), exec (bitInstr b) s = .next t →
    match s.synchronizer.syncState with
    | .noSync => t.synchronizer.syncState = .noSync ∨ t.synchronizer.syncState = .preSync
    | .preSync => t.synchronizer.syncState = .noSync ∨ t.synchronizer.syncState = .preSync ∨ t.synchronizer.syncState = .sync
    | .sync => t.synchronizer.syncState = .sync ∨
        (t.synchronizer.syncState = .noSync ∧ 25 ≤ s.synchronizer.blockBitCounter.toNat ∧
          s.synchronizer.blocksCounter.toNat = 49 ∧ 35 ≤ s.synchronizer.wrongBlocksCounter.toNat)
    | .reserved => t.synchronizer.syncState = .reserved ∨ t.synchronizer.syncState = .preSync

/-- No operation but a bit and HARD_RESET touches the synchronizer (R20, R172). What the environment offers and the index of
the free values are the model's own fields (log 3, log 9). -/
def Obligations.OnlyBitsAndHardResetMoveTheSynchronizer : Prop :=
  ∀ (i : Instr) (s t : State), i ≠ .bit0 → i ≠ .bit1 → i ≠ .hardReset → exec i s = .next t →
    t.synchronizer = s.synchronizer ∧ t.ports = s.ports ∧ t.inputs = s.inputs ∧ t.freeCtr = s.freeCtr

/-! ## The group assembler (42_group_assembler.md) -/

/-- R150, R151, R152, R153: what a block does to the assembly, short of completing a group. That a block 1 to 3 without an
assembly changes nothing is what R155 derives. -/
def Obligations.AssemblerStartsStoresAndAborts : Prop :=
  ∀ (d : Word) (s : State),
    assemble 0#2 d true s =
      s.setAssembler { group := s.assembler.group.setIfInBounds 0 d, goodCount := 1, inProgress := true } ∧
    assemble 0#2 d false s = s.setAssembler { s.assembler with goodCount := 0, inProgress := false } ∧
    ∀ p : BitVec 2, p ≠ 0#2 →
      (s.assembler.inProgress = false → ∀ good, assemble p d good s = s) ∧
      (s.assembler.inProgress = true →
        assemble p d false s = s.setAssembler { s.assembler with goodCount := 0, inProgress := false } ∧
        (s.assembler.goodCount.toNat ≤ 2 →
          assemble p d true s = s.setAssembler { s.assembler with
            group := s.assembler.group.setIfInBounds p.toNat d, goodCount := s.assembler.goodCount + 1 }))

/-- R154 with R133: the bit that completes the fourth good block decodes that group in the same step, exactly as the
group's operation does, and clears the assembly. -/
def Obligations.FourthGoodBlockDecodesTheGroup : Prop :=
  ∀ (b : Bool) (s : State), s.synchronizer.syncState = .sync → s.synchronizer.blockBitCounter.toNat = 25 →
    s.synchronizer.blockNumber = 3#2 → s.assembler.inProgress = true → s.assembler.goodCount = 3 →
    blockGood (windowAfter b s) 3#2 = true →
    ∃ i t u,
      decode (.group ⟨s.assembler.group[0], s.assembler.group[1], s.assembler.group[2],
        (windowAfter b s).extractLsb' 10 16⟩) = .ok i ∧
      exec (bitInstr b) s = .next t ∧ exec i s = .next u ∧
      t.ctx = u.ctx ∧ t.chan = u.chan ∧ t.assembler.goodCount = 0 ∧ t.assembler.inProgress = false

/-- The contract of R156: a bit changes the context or the output queue only by completing the fourth good block of a
group whose first three were good. -/
def Obligations.NoPartialGroupIsDecoded : Prop :=
  ∀ (b : Bool) (s t : State), CoreInv s → exec (bitInstr b) s = .next t → (t.ctx ≠ s.ctx ∨ t.chan ≠ s.chan) →
    s.synchronizer.syncState = .sync ∧ s.synchronizer.blockBitCounter = 25 ∧ s.synchronizer.blockNumber = 3#2 ∧
    s.assembler.inProgress = true ∧ s.assembler.goodCount = 3 ∧ blockGood (windowAfter b s) 3#2 = true

/-- What U2 and R31 say of the words an assembly has not stored: no operation's effect depends on them. The model's
choice of 0 for them at reset (log 4) can therefore never be seen. -/
def Obligations.StaleGroupWordsAreNeverRead : Prop :=
  ∀ (s t : State), CoreInv s → SameButStaleWords s t →
    ∀ (i : Instr) (s' : State), exec i s = .next s' → ∃ t', exec i t = .next t' ∧ SameButStaleWords s' t'

/-! ## Decoding a group (43_group_dispatch.md) -/

/-- R163, R164, R165, R281: every group announces itself first, whatever its type, with its PI in four uppercase hexadecimal
digits, and writes PI and PTY; beside the context and the output queue it writes nothing. -/
def Obligations.EveryGroupAnnouncesItself : Prop :=
  (∀ v : Word,
    let digits : List Byte := [0x30, 0x31, 0x32, 0x33, 0x34, 0x35, 0x36, 0x37, 0x38, 0x39, 0x41, 0x42, 0x43, 0x44, 0x45, 0x46]
    (hex4U v).length = 4 ∧ ∀ k < 4, (hex4U v)[k]? = digits[v.toNat / 16 ^ (3 - k) % 16]?) ∧
  hex4U 0x00A1#16 = [0x30, 0x30, 0x41, 0x31] ∧
  ∀ (i : Instr) (g : GroupWords) (s : State), encode i = .group g →
    ∃ t ms, exec i s = .next t ∧ t.chan = chanAfter (announced g s ++ ms) s ∧
      t.ctx.pi = g.b0 ∧ t.ctx.pty = g.b1.extractLsb' 5 5 ∧
      t = { s with ctx := t.ctx, chan := t.chan }

/-- R161: a group of another PI replaces the whole context before anything of the group is read. -/
def Obligations.NewPiForgetsTheOldStation : Prop :=
  ∀ (i : Instr) (g : GroupWords) (s : State) (c : StationContext), encode i = .group g → c.pi ≠ g.b0 →
    exec i { s with ctx := c } = exec i { s with ctx := freshContext g.b0 }

/-- What R87 derives: without RawGroup, block 2 of a version B group changes nothing. -/
def Obligations.VersionBBlock2IsNotRead : Prop :=
  ∀ (i j : Instr) (g : GroupWords) (w : Word) (s : State), s.conf.emitRawGroup = false → g.b1.getLsbD 11 = true →
    encode i = .group g → encode j = .group { g with b2 := w } → exec i s = exec j s

/-- R168 to R171, R173, R177: types 1, 3, 4B and 8B announce themselves and do nothing else. -/
def Obligations.DescribedNoOpGroupsOnlyAnnounce : Prop :=
  ∀ (hd : Head) (u : Unread) (s : State) (g : GroupWords),
    ∀ i ∈ [Instr.group1A hd u, .group1B hd u, .group3A hd u, .group3B hd u, .group4B hd u, .group8B hd u],
      encode i = .group g →
      exec i s = .next { s with ctx := enteredContext g s, chan := chanAfter (announced g s) s }

/-- R168, R174 to R176, R178 to R184: types 5 to 7 and 9 to 15 announce themselves and do nothing else. -/
def Obligations.OtherNoOpGroupsOnlyAnnounce : Prop :=
  ∀ (hd : Head) (u : Unread) (s : State) (g : GroupWords),
    ∀ i ∈ [Instr.group5A hd u, .group5B hd u, .group6A hd u, .group6B hd u, .group7A hd u, .group7B hd u,
        .group9A hd u, .group9B hd u, .group10A hd u, .group10B hd u, .group11A hd u, .group11B hd u,
        .group12A hd u, .group12B hd u, .group13A hd u, .group13B hd u, .group14A hd u, .group14B hd u,
        .group15A hd u, .group15B hd u],
      encode i = .group g →
      exec i s = .next { s with ctx := enteredContext g s, chan := chanAfter (announced g s) s }

/-- R172: a fresh context and no assembly; nothing else changes. -/
def Obligations.ContextResetClearsContextAndAssembly : Prop :=
  ∀ s : State, exec .ctxReset s = .next { s with
    ctx := ⟨0, 0, false, false, false, false, false, false, false, Vector.replicate 8 0x20#8, 0, 0,
      Vector.replicate 64 0x20#8, 0, false, [], Vector.replicate 4 0, 0, 0⟩,
    assembler := { s.assembler with goodCount := 0, inProgress := false } }

/-! ## Group type 0 (44_type0_basic_tuning.md) -/

/-- R190, R191: the flags a type 0 group writes. -/
def Obligations.Type0WritesItsFlags : Prop :=
  ∀ (hd : Head) (u : Tuning) (afHi afLo c0 c1 : Byte) (pr : Word) (s : State) (g : GroupWords),
    ∀ i ∈ [Instr.group0A hd u afHi afLo c0 c1, .group0B hd u pr c0 c1], encode i = .group g →
    ∃ t, exec i s = .next t ∧
      t.ctx.tp = hd.tp ∧ t.ctx.ta = u.ta ∧ t.ctx.ms = u.ms ∧
      t.ctx.dynamicPty = (if u.seg = 0#2 then u.di else (enteredContext g s).dynamicPty) ∧
      t.ctx.compressed = (if u.seg = 1#2 then u.di else (enteredContext g s).compressed) ∧
      t.ctx.artificialHead = (if u.seg = 2#2 then u.di else (enteredContext g s).artificialHead) ∧
      t.ctx.monoStereo = (if u.seg = 3#2 then u.di else (enteredContext g s).monoStereo)

/-- R192: the PS segment a type 0 group writes, and the completion mask. -/
def Obligations.Type0UpdatesItsPsSegment : Prop :=
  ∀ (hd : Head) (u : Tuning) (afHi afLo c0 c1 : Byte) (pr : Word) (s : State) (g : GroupWords),
    ∀ i ∈ [Instr.group0A hd u afHi afLo c0 c1, .group0B hd u pr c0 c1], encode i = .group g →
    let e := enteredContext g s
    ∃ t, exec i s = .next t ∧
      (∀ k : Fin 8, t.ctx.psBuf[k] =
        if k.val = 2 * u.seg.toNat then c0 else if k.val = 2 * u.seg.toNat + 1 then c1 else e.psBuf[k]) ∧
      (∀ k, t.ctx.psSeen.getLsbD k = (e.psSeen.getLsbD k || decide (k = u.seg.toNat))) ∧
      (e.psSeen.getLsbD u.seg.toNat = true ∧
          (∃ k : Fin 8, k.val / 2 = u.seg.toNat ∧ e.psBuf[k] ≠ t.ctx.psBuf[k]) →
        t.ctx.psMask = 0) ∧
      (¬ (e.psSeen.getLsbD u.seg.toNat = true ∧
          (∃ k : Fin 8, k.val / 2 = u.seg.toNat ∧ e.psBuf[k] ≠ t.ctx.psBuf[k])) →
        ∀ k, t.ctx.psMask.getLsbD k = (e.psMask.getLsbD k || decide (k = u.seg.toNat)))

/-- R193, R203, R206: what a group 0B emits after its announcement, and that it keeps every field R190 to R192 do not
write. -/
def Obligations.Group0BEmitsPsAndFlags : Prop :=
  ∀ (hd : Head) (u : Tuning) (c0 c1 : Byte) (pr : Word) (s : State) (g : GroupWords),
    encode (.group0B hd u pr c0 c1) = .group g →
    let ch : Bool → Byte := fun f => if f then 0x31#8 else 0x30#8
    ∃ t, exec (.group0B hd u pr c0 c1) s = .next t ∧
      t.chan = chanAfter (announced g s ++
        (if t.ctx.psMask = 0xF#4 then [⟨.ps, t.ctx.psBuf.toList⟩] else []) ++
        [⟨.flags, [ch t.ctx.tp, ch t.ctx.ta, ch t.ctx.ms, ch t.ctx.monoStereo, ch t.ctx.artificialHead,
          ch t.ctx.compressed, ch t.ctx.dynamicPty]⟩]) s ∧
      t.ctx = { enteredContext g s with
        tp := t.ctx.tp, ta := t.ctx.ta, ms := t.ctx.ms, monoStereo := t.ctx.monoStereo,
        artificialHead := t.ctx.artificialHead, compressed := t.ctx.compressed, dynamicPty := t.ctx.dynamicPty,
        psBuf := t.ctx.psBuf, psSeen := t.ctx.psSeen, psMask := t.ctx.psMask }

/-- R193, R195, R202, R203, R204: what a group 0A emits, in order, and that it keeps every field R190 to R194 do not write. -/
def Obligations.Group0AEmitsPsFrequenciesAndFlags : Prop :=
  ∀ (hd : Head) (u : Tuning) (afHi afLo c0 c1 : Byte) (s : State) (g : GroupWords),
    encode (.group0A hd u afHi afLo c0 c1) = .group g →
    let ch : Bool → Byte := fun f => if f then 0x31#8 else 0x30#8
    let appended : Bool := decide ((enteredContext g s).afList.getLast? ≠ some (afHi, afLo))
    let text : AfEntry → List Byte := fun e =>
      (if e.lfmf then dec e.khz ++ ascii " kHz"
       else dec (e.khz / 1000) ++ ascii "." ++ dec (e.khz % 1000 / 100) ++ ascii " MHz") ++
      (if e.regional then ascii " (regional)" else [])
    ∃ t, exec (.group0A hd u afHi afLo c0 c1) s = .next t ∧
      t.chan = chanAfter (announced g s ++
        (if t.ctx.psMask = 0xF#4 then [⟨.ps, t.ctx.psBuf.toList⟩] else []) ++
        (match appended, afDecode t.ctx.afList with
          | true, some freqs => [⟨.alternateFrequencies, (ascii ", ").intercalate (freqs.map text)⟩]
          | true, none => []
          | false, _ => []) ++
        [⟨.flags, [ch t.ctx.tp, ch t.ctx.ta, ch t.ctx.ms, ch t.ctx.monoStereo, ch t.ctx.artificialHead,
          ch t.ctx.compressed, ch t.ctx.dynamicPty]⟩]) s ∧
      t.ctx = { enteredContext g s with
        tp := t.ctx.tp, ta := t.ctx.ta, ms := t.ctx.ms, monoStereo := t.ctx.monoStereo,
        artificialHead := t.ctx.artificialHead, compressed := t.ctx.compressed, dynamicPty := t.ctx.dynamicPty,
        psBuf := t.ctx.psBuf, psSeen := t.ctx.psSeen, psMask := t.ctx.psMask, afList := t.ctx.afList }

/-- R194: the AF list after a group 0A. -/
def Obligations.Group0AAppendsItsPair : Prop :=
  ∀ (hd : Head) (u : Tuning) (afHi afLo c0 c1 : Byte) (s : State) (g : GroupWords),
    encode (.group0A hd u afHi afLo c0 c1) = .group g →
    let l := (enteredContext g s).afList
    ∃ t, exec (.group0A hd u afHi afLo c0 c1) s = .next t ∧
      (l.getLast? = some (afHi, afLo) → t.ctx.afList = l) ∧
      (l.getLast? ≠ some (afHi, afLo) → l.length = s.params.afListDepth →
        t.ctx.afList = l.drop 1 ++ [(afHi, afLo)]) ∧
      (l.getLast? ≠ some (afHi, afLo) → l.length ≠ s.params.afListDepth →
        t.ctx.afList = l ++ [(afHi, afLo)])

/-- R196 to R201: AF_DECODE answers nothing without a first row; else it walks the rows after the earliest one, adds what
each row gives while fewer than n frequencies are found, and answers exactly when n (not 0) are found. -/
def Obligations.AfDecodeFollowsTheWalk : Prop :=
  ∀ l : List (Byte × Byte),
    ((∀ p ∈ l, ¬ (224 ≤ p.1.toNat ∧ p.1.toNat ≤ 249)) → afDecode l = none) ∧
    (∀ pre hi special rows, l = pre ++ (hi, special) :: rows →
      (∀ p ∈ pre, ¬ (224 ≤ p.1.toNat ∧ p.1.toNat ≤ 249)) → 224 ≤ hi.toNat → hi.toNat ≤ 249 →
      let n := hi.toNat - 224
      let vhf : Byte → Bool → AfEntry := fun c regional => ⟨false, 87500 + 100 * c.toNat, regional⟩
      let gives : Byte × Byte → List AfEntry := fun p =>
        if p.1 = 250#8 then
          (if p.2.toNat = 0 ∨ 134 < p.2.toNat then []
           else if p.2.toNat ≤ 15 then [⟨true, 144 + 9 * p.2.toNat, false⟩]
           else [⟨true, 387 + 9 * p.2.toNat, false⟩])
        else if p.1 = special then [vhf p.2 (decide (p.1.toNat > p.2.toNat))]
        else if p.2 = special then [vhf p.1 (decide (p.1.toNat > p.2.toNat))]
        else [vhf p.1 false, vhf p.2 false]
      let freqs := rows.foldl (fun found p => found ++ (gives p).take (n - found.length)) [vhf special false]
      afDecode l = if n ≠ 0 ∧ freqs.length = n then some freqs else none)

/-- R198, R199 and the ranges R314 derives: every decoded frequency is a VHF value of 87500 to 113000 kHz in steps of
100, or an untagged LF or MF value in steps of 9 (MF ends at 1593, the value of code 134). -/
def Obligations.DecodedFrequenciesAreInRange : Prop :=
  ∀ (l : List (Byte × Byte)) (freqs : List AfEntry), afDecode l = some freqs → ∀ e ∈ freqs,
    (e.lfmf = false → ∃ c : Byte, (e.khz : Int) = 87600 + ((c.toNat : Int) - 1) * 100) ∧
    (e.lfmf = true → e.regional = false ∧
      ((∃ c, 1 ≤ c ∧ c ≤ 15 ∧ e.khz = 153 + (c - 1) * 9) ∨ (∃ c, 16 ≤ c ∧ c ≤ 134 ∧ e.khz = 531 + (c - 16) * 9)))

/-! ## Group type 2 (45_type2_radiotext.md) -/

/-- R220, R221, R223: what a group 2A writes, byte by byte and bit by bit, and nothing else of the context. -/
def Obligations.Group2AWritesFourCharacters : Prop :=
  ∀ (hd : Head) (ab : Bool) (seg : BitVec 4) (c0 c1 c2 c3 : Byte) (s : State) (g : GroupWords),
    encode (.group2A hd ab seg c0 c1 c2 c3) = .group g →
    let e := enteredContext g s
    ∃ t, exec (.group2A hd ab seg c0 c1 c2 c3) s = .next t ∧
      (∀ k : Fin 64, t.ctx.rtBuf[k] =
        if k.val = 4 * seg.toNat then c0 else if k.val = 4 * seg.toNat + 1 then c1
        else if k.val = 4 * seg.toNat + 2 then c2 else if k.val = 4 * seg.toNat + 3 then c3 else e.rtBuf[k]) ∧
      (∀ k, t.ctx.rtMask.getLsbD k = (decide (k = seg.toNat) || (e.rtMask.getLsbD k && (ab == e.rtAb)))) ∧
      t.ctx.rtAb = ab ∧
      t.ctx = { e with rtBuf := t.ctx.rtBuf, rtMask := t.ctx.rtMask, rtAb := t.ctx.rtAb }

/-- R220, R222, R223: what a group 2B writes, byte by byte and bit by bit, and nothing else of the context. -/
def Obligations.Group2BWritesTwoCharacters : Prop :=
  ∀ (hd : Head) (ab : Bool) (seg : BitVec 4) (pr : Word) (c0 c1 : Byte) (s : State) (g : GroupWords),
    encode (.group2B hd ab seg pr c0 c1) = .group g →
    let e := enteredContext g s
    ∃ t, exec (.group2B hd ab seg pr c0 c1) s = .next t ∧
      (∀ k : Fin 64, t.ctx.rtBuf[k] =
        if k.val = 2 * seg.toNat then c0 else if k.val = 2 * seg.toNat + 1 then c1 else e.rtBuf[k]) ∧
      (∀ k, t.ctx.rtMask.getLsbD k = (decide (k = seg.toNat) || (e.rtMask.getLsbD k && (ab == e.rtAb)))) ∧
      t.ctx.rtAb = ab ∧
      t.ctx = { e with rtBuf := t.ctx.rtBuf, rtMask := t.ctx.rtMask, rtAb := t.ctx.rtAb }

/-- R224, R225, R226: with n leading segments marked, the text up to the first carriage return of their characters is
emitted; without one, a full 2A buffer is emitted whole, and else nothing. -/
def Obligations.RadioTextIsEmittedUpToItsTerminator : Prop :=
  ∀ (hd : Head) (ab : Bool) (seg : BitVec 4) (c0 c1 c2 c3 : Byte) (pr : Word) (s : State) (g : GroupWords),
    ∀ x ∈ [(Instr.group2A hd ab seg c0 c1 c2 c3, 4), (Instr.group2B hd ab seg pr c0 c1, 2)],
    encode x.1 = .group g →
    ∃ t, exec x.1 s = .next t ∧
      ∀ n, n ≤ 16 → (∀ k < n, t.ctx.rtMask.getLsbD k = true) → (n < 16 → t.ctx.rtMask.getLsbD n = false) →
        (∀ k, k < x.2 * n → t.ctx.rtBuf.toList[k]? = some 0x0D#8 →
          (∀ j < k, t.ctx.rtBuf.toList[j]? ≠ some 0x0D#8) →
          t.chan = chanAfter (announced g s ++ [⟨.radioText, t.ctx.rtBuf.toList.take k⟩]) s) ∧
        ((∀ k < x.2 * n, t.ctx.rtBuf.toList[k]? ≠ some 0x0D#8) →
          t.chan = chanAfter (announced g s ++
            (if x.2 = 4 ∧ n = 16 then [⟨.radioText, t.ctx.rtBuf.toList⟩] else [])) s)

/-! ## Group 4A (46_type4_clocktime.md) -/

/-- R241, R242's formula and R243: the clock-time text, or nothing below MJD 15079; the context is only entered. The numbers
are spelled as R10 says: `dec v` is the digits of v, "0" for 0 and without a leading zero otherwise, `dec2` and `dec4` pad
it with "0", and a literal is the ASCII codes of its characters. -/
def Obligations.Group4AEmitsTheClockText : Prop :=
  (∀ v : Nat,
    (∀ c ∈ dec v, 0x30 ≤ c.toNat ∧ c.toNat ≤ 0x39) ∧
    (dec v).foldl (fun n c => 10 * n + (c.toNat - 0x30)) 0 = v ∧
    dec v ≠ [] ∧ ((dec v).head? = some 0x30#8 → dec v = [0x30#8]) ∧
    dec2 v = List.replicate (2 - (dec v).length) 0x30#8 ++ dec v ∧
    dec4 v = List.replicate (4 - (dec v).length) 0x30#8 ++ dec v) ∧
  (∀ l : String, ascii l = l.toList.map fun c => BitVec.ofNat 8 c.toNat) ∧
  ∀ (hd : Head) (f : ClockFields) (s : State) (g : GroupWords), encode (.group4A hd f) = .group g →
    let mjd := f.mjd.toNat
    let y := (100 * mjd - 1507820) / 36525
    let ya := (1461 * y) / 4
    let m := (10000 * (mjd - 14956 - ya) - 1000) / 306001
    let ma := (306001 * m) / 10000
    let k := if m = 14 ∨ m = 15 then 1 else 0
    let text := dec2 (mjd - 14956 - ya - ma) ++ ascii "." ++ dec2 (m - 1 - 12 * k) ++ ascii "." ++
      dec4 (1900 + y + k) ++ ascii ", " ++ dec2 f.hour.toNat ++ ascii ":" ++ dec2 f.minute.toNat ++ ascii " (" ++
      (if f.negative then ascii "-" else ascii "+") ++ dec (f.offset.toNat / 2) ++ ascii "." ++
      dec (5 * (f.offset.toNat % 2)) ++ ascii "h)"
    exec (.group4A hd f) s = .next { s with
      ctx := enteredContext g s,
      chan := chanAfter (announced g s ++ (if mjd < 15079 then [] else [⟨.clocktime, text⟩])) s }

/-- The range that R242 gives for its results: every MJD of the domain is a day 1 to 31 of a month 1 to 12, from
01.03.1900 to 25.09.2217. -/
def Obligations.MjdDatesAreInRange : Prop :=
  (∀ mjd, 15079 ≤ mjd → mjd ≤ 131071 →
    1 ≤ (mjdToDate mjd).day ∧ (mjdToDate mjd).day ≤ 31 ∧ 1 ≤ (mjdToDate mjd).month ∧ (mjdToDate mjd).month ≤ 12 ∧
    1900 ≤ (mjdToDate mjd).year ∧ (mjdToDate mjd).year ≤ 2217) ∧
  mjdToDate 15079 = ⟨1, 3, 1900⟩ ∧ mjdToDate 131071 = ⟨25, 9, 2217⟩

/-- Up to 28.02.2100 (MJD 88127) the date of R242 is the Gregorian date: its Julian day number, by the calendar's own
count of days, is MJD + 2400001. From MJD 88128 on the formula takes 2100 for a leap year, which the calendar does not: it
answers the 29.02.2100. -/
def Obligations.MjdDateIsGregorianUntil2100 : Prop :=
  mjdToDate 88128 = ⟨29, 2, 2100⟩ ∧
  ∀ mjd, 15079 ≤ mjd → mjd ≤ 88127 →
    let d := mjdToDate mjd
    let a := (14 - d.month) / 12
    let y := d.year + 4800 - a
    let m := d.month + 12 * a - 3
    d.day + (153 * m + 2) / 5 + 365 * y + y / 4 - y / 100 + y / 400 - 32045 = mjd + 2400001

/-! ## Group 8A (47_type8_tmc.md) -/

/-- R261 to R264: the four classes of group 8A, and that it emits its announcement alone. -/
def Obligations.Group8AKeepsTheTmcState : Prop :=
  ∀ (hd : Head) (m : TmcFields) (s : State) (g : GroupWords), encode (.group8A hd m) = .group g →
    let e := enteredContext g s
    ∃ t, exec (.group8A hd m) s = .next t ∧ t.chan = chanAfter (announced g s) s ∧
      (m.t = true → t.ctx = e) ∧
      (m.t = false → m.f = true → t.ctx = e) ∧
      (m.t = false → m.f = false → m.first = true → t.ctx = { e with tmcCi := m.ci }) ∧
      (m.t = false → m.f = false → m.first = false →
        (∀ k : Fin 4, t.ctx.tmcFf[k] = if k.val = m.gsi.toNat then m.ff else e.tmcFf[k]) ∧
        t.ctx = { e with tmcCi := m.ci, tmcNoGroups := if m.sg then m.gsi else e.tmcNoGroups, tmcFf := t.ctx.tmcFf })

/-! ## The message channel (48_message_channel.md) -/

/-- R292, R283, R284, and the numbers of R280's kinds: a frame that fits is queued whole behind what is queued; one that does
not is dropped whole and counted, up to 0xFFFF. -/
def Obligations.EmitQueuesOrDropsWhole : Prop :=
  ([.pi, .ps, .pty, .flags, .radioText, .clocktime, .alternateFrequencies, .rawGroup] : List MessageKind).map
    MessageKind.code = [0, 1, 2, 3, 4, 5, 6, 7] ∧
  ∀ (cap : Nat) (c : Channel) (m : Message), c.fifo.length ≤ cap →
    (c.fifo.length + (3 + m.payload.length) ≤ cap →
      (emit cap c m).dropCount = c.dropCount ∧
      (emit cap c m).fifo = c.fifo ++ ([m.kind.code, BitVec.ofNat 8 (m.payload.length >>> 8),
        BitVec.ofNat 8 (m.payload.length &&& 0xFF)] ++ m.payload)) ∧
    (cap < c.fifo.length + (3 + m.payload.length) →
      (emit cap c m).fifo = c.fifo ∧ (emit cap c m).dropCount.toNat = min (c.dropCount.toNat + 1) 0xFFFF)

/-- R284: no operation but HARD_RESET removes a queued byte, and what it adds is whole frames. -/
def Obligations.QueuedBytesStayAndFramesAreWhole : Prop :=
  ∀ (i : Instr) (s t : State), i ≠ .hardReset → exec i s = .next t →
    ∃ ms : List Message, t.chan.fifo = s.chan.fifo ++ (ms.map frame).flatten

/-- R285: only HARD_RESET lowers the drop counter. -/
def Obligations.OnlyHardResetLowersTheDropCount : Prop :=
  (∀ (i : Instr) (s t : State), i ≠ .hardReset → exec i s = .next t →
    s.chan.dropCount.toNat ≤ t.chan.dropCount.toNat) ∧
  (∀ s t : State, exec .ctxReset s = .next t → t.chan = s.chan) ∧
  (∀ s t : State, exec .hardReset s = .next t → t.chan = ⟨[], 0⟩)

/-- The bounds that R288 derives, for the default PTY table, whose names are R289's: every message of every group is within
its kind's. -/
def Obligations.PayloadLengthsAreBounded : Prop :=
  defaultPtyTable.toList.map Prod.fst =
    ["Undefined", "News", "Current Affairs", "Information", "Sport", "Education", "Drama", "Culture", "Science", "Varied",
      "Pop Music", "Rock Music", "Easy Listening", "Light Classical", "Serious Classical", "Other Music", "Weather",
      "Finance", "Children's Programmes", "Social Affairs", "Religion", "Phone-In", "Travel", "Leisure", "Jazz Music",
      "Country Music", "National Music", "Oldies Music", "Folk Music", "Documentary", "Alarm Test", "Alarm"].map ascii ∧
  defaultPtyTable.toList.map Prod.snd =
    ["Undefined", "News", "Information", "Sports", "Talk", "Rock", "Classic Rock", "Adult Hits", "Soft Rock", "Top 40",
      "Country", "Oldies", "Soft", "Nostalgia", "Jazz", "Classical", "Rhythm & Blues", "Soft Rhythm & Blues", "Language",
      "Religious Music", "Religious Talk", "Personality", "Public", "College", "Spanish Talk", "Spanish Music", "Hip Hop",
      "Unassigned", "Unassigned", "Weather", "Emergency Test", "Emergency"].map ascii ∧
  ∀ (i : Instr) (g : GroupWords) (s : State), encode i = .group g → s.params.ptyTable = defaultPtyTable →
    ∃ t ms, exec i s = .next t ∧ t.chan = chanAfter ms s ∧ ∀ m ∈ ms, payloadWithin m

/-- R286: a drain takes the head byte that out_data shows, and nothing else; on an empty queue it is refused (U16). What
out_data shows while out_valid is 0, with an empty queue or during a step, is the model's choice (log 18). -/
def Obligations.DrainTakesTheHeadByte : Prop :=
  ∀ (s : State) (rest : List Event), s.params.legal = true → s.inputs = .drain :: rest →
    (∀ b f, s.chan.fifo = b :: f →
      outData s = some b ∧ step s = .next { s with chan := { s.chan with fifo := f }, inputs := rest }) ∧
    (s.chan.fifo = [] → outData s = none ∧ step s = .refused .drainOnEmptyQueue)

/-! ## Ports and reset (70_reset_and_hazards.md, 10_state.md) -/

/-- R320, R321: what HARD_RESET leaves. That it keeps the events to come and the index of the free values, fields of the
model's own, is the model's choice (log 3, log 9). Of `group`, which R31 leaves at any value, nothing is said. -/
def Obligations.HardResetLeavesTheResetState : Prop :=
  ∀ s : State, ∃ t, exec .hardReset s = .next t ∧
    t.synchronizer.syncState = .noSync ∧ t.synchronizer.window = 0 ∧ t.synchronizer.bitCounter = 0 ∧
    t.synchronizer.lastOffset = .a ∧ t.synchronizer.lastCounter = 0 ∧ t.synchronizer.blockBitCounter = 0 ∧
    t.synchronizer.blockNumber = 0 ∧ t.synchronizer.blocksCounter = 0 ∧ t.synchronizer.wrongBlocksCounter = 0 ∧
    t.assembler.goodCount = 0 ∧ t.assembler.inProgress = false ∧
    t.ctx = ⟨0, 0, false, false, false, false, false, false, false, Vector.replicate 8 0x20#8, 0, 0,
      Vector.replicate 64 0x20#8, 0, false, [], Vector.replicate 4 0, 0, 0⟩ ∧
    t.chan = ⟨[], 0⟩ ∧ t.conf = ⟨s.ports.cfgPtyLocale, s.ports.cfgEmitRawGroup⟩ ∧
    t.ports = { s.ports with busy := 0, ctxHeld := false } ∧ stSyncState t = 0b00#2 ∧
    t.params = s.params ∧ t.inputs = s.inputs ∧ t.freeCtr = s.freeCtr

/-- R40: a step that runs HARD_RESET leaves the configuration inputs' values in the configuration, and every other step
keeps the configuration; the parameters never change. -/
def Obligations.ConfigurationChangesOnlyAtHardReset : Prop :=
  ∀ s t : State, step s = .next t → t.params = s.params ∧
    ((∃ w rest, s.inputs = .op w :: rest ∧ decode w = .ok .hardReset) →
      t.conf = ⟨s.ports.cfgPtyLocale, s.ports.cfgEmitRawGroup⟩) ∧
    (¬ (∃ w rest, s.inputs = .op w :: rest ∧ decode w = .ok .hardReset) → t.conf = s.conf)

/-- R41, R22: the status outputs are copies of their fields. -/
def Obligations.StatusOutputsCopyTheirFields : Prop :=
  ∀ s : State,
    stSyncState s = (match s.synchronizer.syncState with
      | .noSync => 0b00#2 | .preSync => 0b01#2 | .sync => 0b10#2 | .reserved => 0b11#2) ∧
    stBlockNumber s = s.synchronizer.blockNumber ∧ stBlocks s = s.synchronizer.blocksCounter ∧
    stWrongBlocks s = s.synchronizer.wrongBlocksCounter ∧ stMsgDrops s = s.chan.dropCount

/-- R320 at the port: an edge with rst = 1 performs HARD_RESET with the configuration inputs of that edge, takes no bit,
no byte and no context reset, and abandons a step in progress. The events still to come stay (log 3). -/
def Obligations.HardResetWinsItsEdge : Prop :=
  ∀ (s : State) (e : Edge) (rest : List Event), s.params.legal = true → s.inputs = .clock e :: rest → e.rst = true →
    bitReady e.rst s = false ∧ outValid e.rst s = false ∧
    ∃ t u, step s = .next t ∧ step t = .next u ∧
      u.inputs = rest ∧ u.conf = ⟨e.cfgPtyLocale, e.cfgEmitRawGroup⟩ ∧
      u.ports = ⟨e.cfgPtyLocale, e.cfgEmitRawGroup, 0, false⟩ ∧ u.synchronizer = Synchronizer.reset ∧
      u.ctx = freshContext 0 ∧ u.chan = ⟨[], 0⟩ ∧ u.assembler.inProgress = false ∧ u.assembler.goodCount = 0

/-- R323, R324, R286, and the place of the byte taken on the same edge (log 10, the model's reading): at an edge where the
core is ready, a context reset is performed first, then the consumer takes its byte, and the bit, if one is offered, is
next. -/
def Obligations.ContextResetGoesBeforeTheBit : Prop :=
  ∀ (s : State) (e : Edge) (rest : List Event), s.params.legal = true → s.inputs = .clock e :: rest →
    e.rst = false → s.ports.busy = 0 → e.ctxReset = true →
    bitReady e.rst s = true ∧
    ∃ t u, step s = .next t ∧ step t = .next u ∧
      u.ctx = freshContext 0 ∧ u.assembler.inProgress = false ∧ u.assembler.goodCount = 0 ∧
      u.chan = s.chan ∧ u.synchronizer = s.synchronizer ∧ u.conf = s.conf ∧ u.ports.ctxHeld = false ∧
      u.inputs = (if e.outReady = true ∧ s.chan.fifo ≠ [] then [.drain] else []) ++
        (if e.bitValid = true then [.op (.bitPort (BitVec.ofBool e.bitData))] else []) ++ rest

/-- R324, R323, R286: any edge at a ready core. A bit taken there starts a step of 1 to MAX_STEP_CYCLES cycles, whatever the
implementation's length (log 9) and whatever else the edge asks, and without an offered bit no step starts; a byte is
valid exactly when the queue holds one. What the edge asks is next to run, in the order context reset, byte, bit (the
byte's place, and a request still held at a ready core: log 10; the events' list: log 3). -/
def Obligations.AcceptedBitStartsABoundedStep : Prop :=
  ∀ (s : State) (e : Edge) (rest : List Event), s.params.legal = true → s.inputs = .clock e :: rest →
    e.rst = false → s.ports.busy = 0 →
    bitReady e.rst s = true ∧ (outValid e.rst s = true ↔ s.chan.fifo ≠ []) ∧
    ∃ t, step s = .next t ∧ t.params = s.params ∧ t.conf = s.conf ∧ t.synchronizer = s.synchronizer ∧
      t.assembler = s.assembler ∧ t.ctx = s.ctx ∧ t.chan = s.chan ∧
      t.ports.cfgPtyLocale = e.cfgPtyLocale ∧ t.ports.cfgEmitRawGroup = e.cfgEmitRawGroup ∧ t.ports.ctxHeld = false ∧
      (e.bitValid = true → 1 ≤ t.ports.busy ∧ t.ports.busy ≤ maxStepCycles) ∧
      (e.bitValid = false → t.ports.busy = 0) ∧
      t.inputs =
        (if (s.ports.ctxHeld || e.ctxReset) = true then [.op (.ctxResetPort 1#1)] else []) ++
        (if e.outReady = true ∧ s.chan.fifo ≠ [] then [.drain] else []) ++
        (if e.bitValid = true then [.op (.bitPort (BitVec.ofBool e.bitData))] else []) ++ rest

/-- R323, R324: while a step is in progress no bit and no byte is taken, whatever is offered, and a context reset is held,
merged with one already held, and performed when the step ends. -/
def Obligations.BusyCoreHoldsTheContextReset : Prop :=
  ∀ (s : State) (e : Edge) (rest : List Event), s.params.legal = true → s.inputs = .clock e :: rest →
    e.rst = false → 0 < s.ports.busy →
    bitReady e.rst s = false ∧ outValid e.rst s = false ∧
    ∃ t, step s = .next t ∧ t.ports.busy = s.ports.busy - 1 ∧
      t.synchronizer = s.synchronizer ∧ t.assembler = s.assembler ∧ t.ctx = s.ctx ∧ t.chan = s.chan ∧ t.conf = s.conf ∧
      (1 < s.ports.busy → t.inputs = rest ∧ t.ports.ctxHeld = (s.ports.ctxHeld || e.ctxReset)) ∧
      (s.ports.busy = 1 → t.ports.ctxHeld = false ∧
        t.inputs = (if (s.ports.ctxHeld || e.ctxReset) = true then [.op (.ctxResetPort 1#1)] else []) ++ rest)

/-! ## The step -/

/-- A step takes the next event's word from the inputs and runs the operation it decodes to. -/
def Obligations.StepRunsTheDecodedOperation : Prop :=
  ∀ (s : State) (w : OpWord) (rest : List Event) (i : Instr), s.params.legal = true → s.inputs = .op w :: rest →
    decode w = .ok i → step s = exec i { s with inputs := rest }

/-- R311: with no bit presented and nothing asked, every state element holds its value; a request line at 0 asks nothing. -/
def Obligations.IdleCoreHoldsItsState : Prop :=
  (∀ s : State, s.params.legal = true → s.inputs = [] → step s = .next s) ∧
  (∀ (s : State) (rest : List Event), s.params.legal = true →
    (s.inputs = .op (.ctxResetPort 0#1) :: rest ∨ s.inputs = .op (.rstPort 0#1) :: rest) →
    step s = .next { s with inputs := rest })

/-- R6: parameters outside the legal ranges are refused. -/
def Obligations.IllegalParametersAreRefused : Prop :=
  ∀ s : State,
    (s.params.bitctrW < 8 ∨ 64 < s.params.bitctrW ∨ s.params.afListDepth < 2 ∨ 1024 < s.params.afListDepth ∨
      s.params.msgFifoBytes < 1024 ∨ 65536 < s.params.msgFifoBytes) →
    step s = .refused .illegalParameters

/-- The claim of R300: no step is refused, but for the events U16 and R6 say to refuse. -/
def Obligations.NoStepIsRefusedOrAborted : Prop :=
  ∀ s : State, s.params.legal = true → (s.inputs.head? = some .drain → s.chan.fifo ≠ []) → ∃ t, step s = .next t

/-- The reset state meets the invariant. -/
def Obligations.InvariantHoldsAtReset : Prop := CoreInv State.reset

/-- Every element stays in the legal range that R22 to R38 give it, whatever the step. -/
def Obligations.StepKeepsTheInvariant : Prop :=
  ∀ s t : State, CoreInv s → step s = .next t → CoreInv t
end

