-- ==== Sys2Proof/Laws/State.lean ====
section
/-! SUPPORT. The fields of a state after each write of a component. -/

namespace Sys2Proof.Machine

variable (s : State)

@[simp] theorem State.setSynchronizer_params (y : Synchronizer) : (s.setSynchronizer y).params = s.params := rfl
@[simp] theorem State.setSynchronizer_conf (y : Synchronizer) : (s.setSynchronizer y).conf = s.conf := rfl
@[simp] theorem State.setSynchronizer_synchronizer (y : Synchronizer) : (s.setSynchronizer y).synchronizer = y := rfl
@[simp] theorem State.setSynchronizer_assembler (y : Synchronizer) : (s.setSynchronizer y).assembler = s.assembler := rfl
@[simp] theorem State.setSynchronizer_ctx (y : Synchronizer) : (s.setSynchronizer y).ctx = s.ctx := rfl
@[simp] theorem State.setSynchronizer_chan (y : Synchronizer) : (s.setSynchronizer y).chan = s.chan := rfl
@[simp] theorem State.setSynchronizer_ports (y : Synchronizer) : (s.setSynchronizer y).ports = s.ports := rfl
@[simp] theorem State.setSynchronizer_inputs (y : Synchronizer) : (s.setSynchronizer y).inputs = s.inputs := rfl
@[simp] theorem State.setSynchronizer_freeCtr (y : Synchronizer) : (s.setSynchronizer y).freeCtr = s.freeCtr := rfl
@[simp] theorem State.setSynchronizer_setSynchronizer (y y' : Synchronizer) : (s.setSynchronizer y).setSynchronizer y' = s.setSynchronizer y' := rfl
@[simp] theorem State.setSynchronizer_self : s.setSynchronizer s.synchronizer = s := rfl

@[simp] theorem State.setAssembler_params (a : Assembler) : (s.setAssembler a).params = s.params := rfl
@[simp] theorem State.setAssembler_conf (a : Assembler) : (s.setAssembler a).conf = s.conf := rfl
@[simp] theorem State.setAssembler_synchronizer (a : Assembler) : (s.setAssembler a).synchronizer = s.synchronizer := rfl
@[simp] theorem State.setAssembler_assembler (a : Assembler) : (s.setAssembler a).assembler = a := rfl
@[simp] theorem State.setAssembler_ctx (a : Assembler) : (s.setAssembler a).ctx = s.ctx := rfl
@[simp] theorem State.setAssembler_chan (a : Assembler) : (s.setAssembler a).chan = s.chan := rfl
@[simp] theorem State.setAssembler_ports (a : Assembler) : (s.setAssembler a).ports = s.ports := rfl
@[simp] theorem State.setAssembler_inputs (a : Assembler) : (s.setAssembler a).inputs = s.inputs := rfl
@[simp] theorem State.setAssembler_freeCtr (a : Assembler) : (s.setAssembler a).freeCtr = s.freeCtr := rfl
@[simp] theorem State.setAssembler_setAssembler (a a' : Assembler) : (s.setAssembler a).setAssembler a' = s.setAssembler a' := rfl
@[simp] theorem State.setAssembler_self : s.setAssembler s.assembler = s := rfl

@[simp] theorem State.setCtx_params (c : StationContext) : (s.setCtx c).params = s.params := rfl
@[simp] theorem State.setCtx_conf (c : StationContext) : (s.setCtx c).conf = s.conf := rfl
@[simp] theorem State.setCtx_synchronizer (c : StationContext) : (s.setCtx c).synchronizer = s.synchronizer := rfl
@[simp] theorem State.setCtx_assembler (c : StationContext) : (s.setCtx c).assembler = s.assembler := rfl
@[simp] theorem State.setCtx_ctx (c : StationContext) : (s.setCtx c).ctx = c := rfl
@[simp] theorem State.setCtx_chan (c : StationContext) : (s.setCtx c).chan = s.chan := rfl
@[simp] theorem State.setCtx_ports (c : StationContext) : (s.setCtx c).ports = s.ports := rfl
@[simp] theorem State.setCtx_inputs (c : StationContext) : (s.setCtx c).inputs = s.inputs := rfl
@[simp] theorem State.setCtx_freeCtr (c : StationContext) : (s.setCtx c).freeCtr = s.freeCtr := rfl
@[simp] theorem State.setCtx_setCtx (c c' : StationContext) : (s.setCtx c).setCtx c' = s.setCtx c' := rfl
@[simp] theorem State.setCtx_self : s.setCtx s.ctx = s := rfl

@[simp] theorem State.setChan_params (c : Channel) : (s.setChan c).params = s.params := rfl
@[simp] theorem State.setChan_conf (c : Channel) : (s.setChan c).conf = s.conf := rfl
@[simp] theorem State.setChan_synchronizer (c : Channel) : (s.setChan c).synchronizer = s.synchronizer := rfl
@[simp] theorem State.setChan_assembler (c : Channel) : (s.setChan c).assembler = s.assembler := rfl
@[simp] theorem State.setChan_ctx (c : Channel) : (s.setChan c).ctx = s.ctx := rfl
@[simp] theorem State.setChan_chan (c : Channel) : (s.setChan c).chan = c := rfl
@[simp] theorem State.setChan_ports (c : Channel) : (s.setChan c).ports = s.ports := rfl
@[simp] theorem State.setChan_inputs (c : Channel) : (s.setChan c).inputs = s.inputs := rfl
@[simp] theorem State.setChan_freeCtr (c : Channel) : (s.setChan c).freeCtr = s.freeCtr := rfl
@[simp] theorem State.setChan_setChan (c c' : Channel) : (s.setChan c).setChan c' = s.setChan c' := rfl
@[simp] theorem State.setChan_self : s.setChan s.chan = s := rfl

@[simp] theorem State.setInputs_params (l : List Event) : (s.setInputs l).params = s.params := rfl
@[simp] theorem State.setInputs_conf (l : List Event) : (s.setInputs l).conf = s.conf := rfl
@[simp] theorem State.setInputs_synchronizer (l : List Event) : (s.setInputs l).synchronizer = s.synchronizer := rfl
@[simp] theorem State.setInputs_assembler (l : List Event) : (s.setInputs l).assembler = s.assembler := rfl
@[simp] theorem State.setInputs_ctx (l : List Event) : (s.setInputs l).ctx = s.ctx := rfl
@[simp] theorem State.setInputs_chan (l : List Event) : (s.setInputs l).chan = s.chan := rfl
@[simp] theorem State.setInputs_ports (l : List Event) : (s.setInputs l).ports = s.ports := rfl
@[simp] theorem State.setInputs_inputs (l : List Event) : (s.setInputs l).inputs = l := rfl
@[simp] theorem State.setInputs_freeCtr (l : List Event) : (s.setInputs l).freeCtr = s.freeCtr := rfl
@[simp] theorem State.setInputs_setInputs (l l' : List Event) : (s.setInputs l).setInputs l' = s.setInputs l' := rfl
@[simp] theorem State.setInputs_self : s.setInputs s.inputs = s := rfl

/-- A state is its fields. -/
theorem State.ext_fields {s t : State} (h1 : s.params = t.params) (h2 : s.conf = t.conf)
    (h3 : s.synchronizer = t.synchronizer) (h4 : s.assembler = t.assembler) (h5 : s.ctx = t.ctx) (h6 : s.chan = t.chan)
    (h7 : s.ports = t.ports) (h8 : s.inputs = t.inputs) (h9 : s.freeCtr = t.freeCtr) : s = t := by
  cases s; cases t; simp_all

end Sys2Proof.Machine
end

