-- ==== Sys2Proof/Laws/Channel.lean ====
section
/-! SUPPORT. What the message channel's operations can do. -/

namespace Sys2Proof.Machine

/-- `emit` queues the whole frame, which fits, or counts one drop and queues nothing. -/
theorem emit_cases (cap : Nat) (c : Channel) (m : Message) :
    (emit cap c m = { c with fifo := c.fifo ++ frame m } ∧ (frame m).length ≤ cap - c.fifo.length) ∨
    (emit cap c m = { c with dropCount := countDrop c.dropCount } ∧ cap - c.fifo.length < (frame m).length) := by
  unfold emit
  split
  · exact .inl ⟨rfl, by assumption⟩
  · exact .inr ⟨rfl, by omega⟩

@[simp] theorem frame_length (m : Message) : (frame m).length = m.payload.length + 3 := rfl

/-- One more drop counts at most one, and never loses a count. -/
theorem le_countDrop (n : BitVec 16) : n.toNat ≤ (countDrop n).toNat ∧ (countDrop n).toNat ≤ n.toNat + 1 := by
  unfold countDrop
  split
  · have h : (n + 1).toNat = n.toNat + 1 := by
      rw [BitVec.toNat_add]; exact Nat.mod_eq_of_lt (by simp; omega)
    omega
  · omega

@[simp] theorem emitAll_nil (cap : Nat) (c : Channel) : emitAll cap c [] = c := rfl

@[simp] theorem emitAll_cons (cap : Nat) (c : Channel) (m : Message) (ms : List Message) :
    emitAll cap c (m :: ms) = emitAll cap (emit cap c m) ms := rfl

theorem emitAll_append (cap : Nat) (c : Channel) (ms ns : List Message) :
    emitAll cap c (ms ++ ns) = emitAll cap (emitAll cap c ms) ns := List.foldl_append ..

/-- Emission keeps what is queued, appends whole frames, never exceeds the capacity it found respected, and never
lowers the drop count. -/
theorem emitAll_spec (cap : Nat) (ms : List Message) : ∀ c : Channel,
    (∃ ns : List Message, ns.Sublist ms ∧ (emitAll cap c ms).fifo = c.fifo ++ (ns.map frame).flatten) ∧
    (c.fifo.length ≤ cap → (emitAll cap c ms).fifo.length ≤ cap) ∧
    c.dropCount.toNat ≤ (emitAll cap c ms).dropCount.toNat := by
  induction ms with
  | nil => intro c; exact ⟨⟨[], List.Sublist.refl _, by simp⟩, id, le_refl _⟩
  | cons m ms ih =>
    intro c
    obtain ⟨⟨ns, hsub, hf⟩, hcap, hdrop⟩ := ih (emit cap c m)
    rw [emitAll_cons]
    rcases emit_cases cap c m with ⟨he, hle⟩ | ⟨he, -⟩ <;> rw [he] at hf hcap hdrop ⊢
    · refine ⟨⟨m :: ns, hsub.cons_cons m, by simp [hf]⟩, fun h => hcap ?_, hdrop⟩
      simp at hle ⊢; omega
    · exact ⟨⟨ns, hsub.cons m, hf⟩, hcap, (le_countDrop _).1.trans hdrop⟩

end Sys2Proof.Machine
end

