-- ==== Sys2Proof/Laws/Group.lean ====
section
/-! SUPPORT. What decoding a group can do: it writes the context and the channel and nothing else. -/

namespace Sys2Proof.Machine

/-- DECODE_GROUP's whole effect. -/
theorem decodeWith_eq (g : GroupWords) (hd : Head) (h : StationContext → Handled) (s : State) :
    decodeWith g hd h s =
      (s.setCtx (h (enterContext hd s.ctx)).1).setChan
        (emitAll s.params.msgFifoBytes s.chan
          (commonMessages s.params s.conf g hd ++ (h (enterContext hd s.ctx)).2)) := rfl

/-- A group that starts with another assembly in the state decodes to the same, but for that assembly. -/
theorem decodeWith_setAssembler (g : GroupWords) (hd : Head) (h : StationContext → Handled) (s : State) (a : Assembler) :
    decodeWith g hd h (s.setAssembler a) = (decodeWith g hd h s).setAssembler a := rfl

theorem decodeWith_setSynchronizer (g : GroupWords) (hd : Head) (h : StationContext → Handled) (s : State)
    (y : Synchronizer) : decodeWith g hd h (s.setSynchronizer y) = (decodeWith g hd h s).setSynchronizer y := rfl

/-- Decoding a group writes the context and the channel alone, and the channel only by emitting messages. -/
theorem runGroup_spec (i : Instr) (s : State) :
    ∃ (c : StationContext) (ms : List Message),
      runGroup i s = (s.setCtx c).setChan (emitAll s.params.msgFifoBytes s.chan ms) := by
  cases i <;> first | exact ⟨_, _, rfl⟩ | exact ⟨s.ctx, [], rfl⟩

theorem runGroup_setAssembler (i : Instr) (s : State) (a : Assembler) :
    runGroup i (s.setAssembler a) = (runGroup i s).setAssembler a := by cases i <;> rfl

theorem runGroup_setSynchronizer (i : Instr) (s : State) (y : Synchronizer) :
    runGroup i (s.setSynchronizer y) = (runGroup i s).setSynchronizer y := by cases i <;> rfl

@[simp] theorem trackPi_pi (pi : Word) (c : StationContext) : (trackPi pi c).pi = pi := by
  unfold trackPi
  split <;> simp_all [freshContext]

@[simp] theorem enterContext_pi (hd : Head) (c : StationContext) : (enterContext hd c).pi = hd.pi := by
  simp [enterContext]

@[simp] theorem enterContext_pty (hd : Head) (c : StationContext) : (enterContext hd c).pty = hd.pty := rfl

/-- A group of another PI sees the fresh context (R161). -/
theorem trackPi_of_ne {pi : Word} {c : StationContext} (h : pi ≠ c.pi) : trackPi pi c = freshContext pi := by
  simp [trackPi, h]

/-- A group of the same PI keeps the context (R161). -/
theorem trackPi_of_eq {pi : Word} {c : StationContext} (h : pi = c.pi) : trackPi pi c = c := by
  simp [trackPi, h]

/-- The AF list never outgrows its depth (R36, R194). -/
theorem afAppend_length_le {depth : Nat} (hd : 0 < depth) (p : Byte × Byte) (l : List (Byte × Byte))
    (h : l.length ≤ depth) : (afAppend depth p l).length ≤ depth := by
  unfold afAppend
  split
  · split <;> simp <;> omega
  · exact h

end Sys2Proof.Machine
end

