-- ==== Sys2Proof/Laws/Synchronize.lean ====
section
/-! SUPPORT. What the assembler and a bit can do. -/

namespace Sys2Proof.Machine

/-- ASSEMBLE either writes the assembler alone, or, when this block is the fourth of a group, decodes that group with
the assembly cleared (R156). -/
theorem assemble_cases (p : BitVec 2) (d : Word) (good : Bool) (s : State) :
    (∃ a, assemble p d good s = s.setAssembler a) ∨
    (p ≠ 0#2 ∧ good = true ∧ s.assembler.inProgress = true ∧ (s.assembler.store p d).goodCount.toNat = 4 ∧
      assemble p d good s =
        (decodeGroupOp (s.assembler.store p d).words s).setAssembler (s.assembler.store p d).clear) := by
  unfold assemble
  split
  · exact .inl ⟨_, rfl⟩
  · rename_i hp
    split
    · rename_i hi
      split
      · rename_i hg
        unfold storeBlock
        by_cases h4 : (s.assembler.store p d).goodCount.toNat = 4
        · refine .inr ⟨by simpa using hp, hg, hi, h4, ?_⟩
          simp only [h4, if_true]
          exact runGroup_setAssembler _ _ _
        · exact .inl ⟨s.assembler.store p d, by simp only [h4, if_false]⟩
      · exact .inl ⟨_, rfl⟩
    · exact .inl ⟨s.assembler, rfl⟩

/-- ASSEMBLE leaves the synchronizer and everything outside the decoder alone. -/
theorem assemble_frame (p : BitVec 2) (d : Word) (good : Bool) (s : State) :
    ∃ (a : Assembler) (c : StationContext) (ms : List Message),
      assemble p d good s = ((s.setAssembler a).setCtx c).setChan (emitAll s.params.msgFifoBytes s.chan ms) := by
  rcases assemble_cases p d good s with ⟨a, h⟩ | ⟨-, -, -, -, h⟩
  · exact ⟨a, s.ctx, [], h⟩
  · obtain ⟨c, ms, hr⟩ := runGroup_spec (decodeGroup (s.assembler.store p d).words) s
    refine ⟨(s.assembler.store p d).clear, c, ms, h.trans ?_⟩
    unfold decodeGroupOp
    rw [hr]; rfl

/-- SEARCH writes the synchronizer, and the assembler only to clear it on entering Sync. -/
theorem search_frame (s : State) :
    ∃ (y : Synchronizer) (a : Assembler), search s = (s.setSynchronizer y).setAssembler a ∧
      (a = s.assembler ∨ (a = s.assembler.clear ∧ y.syncState = .sync)) := by
  unfold search
  split
  · exact ⟨s.synchronizer, s.assembler, rfl, .inl rfl⟩
  · split
    · split
      · exact ⟨lock _ s.synchronizer, s.assembler.clear, rfl, .inr ⟨rfl, rfl⟩⟩
      · exact ⟨dropPairing s.synchronizer, s.assembler, rfl, .inl rfl⟩
    · exact ⟨firstMatch _ s.synchronizer, s.assembler, rfl, .inl rfl⟩

/-- A bit leaves the parameters, the configuration, the ports, the events still to come and the model's counter alone,
and emits messages at most. -/
theorem bitStep_frame (b : Bool) (s : State) :
    ∃ (y : Synchronizer) (a : Assembler) (c : StationContext) (ms : List Message),
      bitStep b s =
        (((s.setSynchronizer y).setAssembler a).setCtx c).setChan (emitAll s.params.msgFifoBytes s.chan ms) := by
  have key : ∃ (y : Synchronizer) (a : Assembler) (c : StationContext) (ms : List Message),
      syncStep (shifted b s) =
        (((s.setSynchronizer y).setAssembler a).setCtx c).setChan (emitAll s.params.msgFifoBytes s.chan ms) := by
    have hs : ∃ (y : Synchronizer) (a : Assembler) (c : StationContext) (ms : List Message),
        search (shifted b s) =
          (((s.setSynchronizer y).setAssembler a).setCtx c).setChan (emitAll s.params.msgFifoBytes s.chan ms) := by
      obtain ⟨y, a, h, -⟩ := search_frame (shifted b s)
      exact ⟨y, a, s.ctx, [], h⟩
    have ht : ∃ (y : Synchronizer) (a : Assembler) (c : StationContext) (ms : List Message),
        track (shifted b s) =
          (((s.setSynchronizer y).setAssembler a).setCtx c).setChan (emitAll s.params.msgFifoBytes s.chan ms) := by
      unfold track
      split
      · exact ⟨countBit (shiftWindow b s.synchronizer), s.assembler, s.ctx, [], rfl⟩
      · unfold blockEnd
        obtain ⟨a, c, ms, h⟩ := assemble_frame (shifted b s).synchronizer.blockNumber
          (dataWord (shifted b s).synchronizer.window)
          (blockGood (shifted b s).synchronizer.window (shifted b s).synchronizer.blockNumber)
          ((shifted b s).setSynchronizer (countBad
            (blockGood (shifted b s).synchronizer.window (shifted b s).synchronizer.blockNumber)
            (shifted b s).synchronizer))
        simp only [h]
        exact ⟨_, a, c, ms, rfl⟩
    unfold syncStep
    split <;> assumption
  obtain ⟨y, a, c, ms, h⟩ := key
  exact ⟨tick s.params.bitctrW y, a, c, ms, by unfold bitStep; simp only [h]; rfl⟩

/-- Every operation answers a next state. -/
theorem exec_next (i : Instr) (s : State) : ∃ t, exec i s = .next t := by
  cases i <;> exact ⟨_, rfl⟩

/-- On a group, `exec` is DECODE_GROUP's dispatch. -/
theorem exec_eq_runGroup (i : Instr) (s : State) (h1 : i ≠ .bit0) (h2 : i ≠ .bit1) (h3 : i ≠ .ctxReset)
    (h4 : i ≠ .hardReset) : exec i s = .next (runGroup i s) := by
  cases i <;> first | rfl | contradiction

end Sys2Proof.Machine
end

