-- ==== Sys2Proof/Laws/BitStep.lean ====
section
/-! SUPPORT. What one bit does, in the words claims use: the shift, the search's answer, and the end of a block. -/

namespace Sys2Proof.Machine

theorem exec_bitInstr (b : Bool) (s : State) : exec (bitInstr b) s = .next (bitStep b s) := by cases b <;> rfl

/-- The shifted window is `windowAfter` (R121). -/
theorem shiftWindow_window (b : Bool) (s : State) : (shiftWindow b s.synchronizer).window = windowAfter b s := by
  unfold shiftWindow windowAfter
  apply BitVec.eq_of_toNat_eq
  simp only [BitVec.toNat_cast, BitVec.toNat_append, BitVec.toNat_ofNat, BitVec.extractLsb'_toNat, Nat.shiftRight_zero,
    BitVec.toNat_ofBool]
  rw [← Nat.shiftLeft_add_eq_or_of_lt (by cases b <;> decide), Nat.shiftLeft_eq]
  have := s.synchronizer.window.isLt
  cases b <;> simp <;> omega

theorem shifted_eq (b : Bool) (s : State) :
    shifted b s = s.setSynchronizer { s.synchronizer with window := windowAfter b s } := by
  unfold shifted
  rw [← shiftWindow_window]; rfl

theorem findOffset_eq_none {w : BitVec 26} (h : ∀ j : Offset, syndrome w ≠ j.syndromeOf) : findOffset w = none := by
  unfold findOffset; simp [List.find?_eq_none, h]

/-- The offsets' syndromes differ, so the search's order does not matter (R112, R122). -/
theorem findOffset_eq_some {w : BitVec 26} {j : Offset} (h : syndrome w = j.syndromeOf) : findOffset w = some j := by
  unfold findOffset; rw [h]; cases j <;> decide

/-- ASSEMBLE does not see the synchronizer. -/
theorem assemble_setSynchronizer (p : BitVec 2) (d : Word) (good : Bool) (s : State) (y : Synchronizer) :
    assemble p d good (s.setSynchronizer y) = (assemble p d good s).setSynchronizer y := by
  have e : (s.setSynchronizer y).setAssembler (s.assembler.store p d).clear =
      (s.setAssembler (s.assembler.store p d).clear).setSynchronizer y := rfl
  unfold assemble storeBlock decodeGroupOp
  simp only [State.setSynchronizer_assembler]
  rw [e, runGroup_setSynchronizer]
  by_cases h1 : (p == 0#2) = true
  · simp only [h1, if_true]; rfl
  · simp only [h1, Bool.false_eq_true, if_false]
    by_cases h2 : s.assembler.inProgress = true
    · by_cases h3 : good = true
      · by_cases h4 : (s.assembler.store p d).goodCount.toNat = 4
        · simp only [h2, h3, h4, if_true]
        · simp only [h2, h3, h4, if_true, if_false]; rfl
      · simp only [h2, h3, if_true, Bool.false_eq_true, if_false]; rfl
    · simp only [h2, Bool.false_eq_true, if_false]

/-- The whole effect of the bit that ends a block (R128, R133, R129, R130, R131). -/
theorem bitStep_blockEnd {b : Bool} {s : State} (hs : s.synchronizer.syncState = .sync)
    (h : ¬ s.synchronizer.blockBitCounter.toNat < 25) :
    bitStep b s =
      (assemble s.synchronizer.blockNumber (dataWord (windowAfter b s))
        (blockGood (windowAfter b s) s.synchronizer.blockNumber) s).setSynchronizer
      (tick s.params.bitctrW (qualityCheck (advanceBlock (countBad
        (blockGood (windowAfter b s) s.synchronizer.blockNumber)
        { s.synchronizer with window := windowAfter b s })))) := by
  obtain ⟨a, c, ms, hf⟩ := assemble_frame s.synchronizer.blockNumber (dataWord (windowAfter b s))
    (blockGood (windowAfter b s) s.synchronizer.blockNumber) s
  unfold bitStep syncStep
  rw [shifted_eq]
  simp only [State.setSynchronizer_synchronizer, hs]
  unfold track blockEnd
  simp only [State.setSynchronizer_synchronizer, State.setSynchronizer_setSynchronizer, if_neg h,
    assemble_setSynchronizer, hf]
  simp

end Sys2Proof.Machine
end

