-- ==== Sys2Proof/Laws/PerInstr.lean ====
section
/-! SUPPORT. Every operation's word stands on its table row's port and matches the row under its mask
(spec/opcode_table.json), one lemma per constructor. -/

namespace Sys2Proof.Laws

/-- Bits 15..11 of a header word are its code, wherever the other fields stand. -/
theorem headerWord_code (code : BitVec 5) (hd : Head) (low5 : BitVec 5) :
    (headerWord code hd low5).toNat &&& 0xF800 = code.toNat * 2048 := by
  have h : (headerWord code hd low5 &&& 0xF800#16) = (code ++ 0#11).cast (by decide) := by
    apply BitVec.eq_of_getLsbD_eq
    intro i hi
    unfold headerWord
    simp only [BitVec.getLsbD_and, BitVec.getLsbD_cast, BitVec.getLsbD_append]
    interval_cases i <;> simp
  have h2 := congrArg BitVec.toNat h
  rw [BitVec.toNat_and, BitVec.toNat_cast, BitVec.toNat_append] at h2
  simpa [Nat.shiftLeft_eq] using h2

namespace TableRowFits

/-- The word of the operation fits its row of the opcode table. -/
def Statement (i : Instr) : Prop :=
  (encode i).port = (tableRow i).port ∧ (encode i).tableBits &&& (tableRow i).mask = (tableRow i).value

theorem bit0 : Statement .bit0 := ⟨rfl, rfl⟩
theorem bit1 : Statement .bit1 := ⟨rfl, rfl⟩
theorem ctxReset : Statement .ctxReset := ⟨rfl, rfl⟩
theorem hardReset : Statement .hardReset := ⟨rfl, rfl⟩
theorem group0A (hd : Head) (tune : Tuning) (afHi afLo c0 c1 : Byte) : Statement (.group0A hd tune afHi afLo c0 c1) := ⟨rfl, headerWord_code _ _ _⟩
theorem group0B (hd : Head) (tune : Tuning) (piRepeat : Word) (c0 c1 : Byte) : Statement (.group0B hd tune piRepeat c0 c1) := ⟨rfl, headerWord_code _ _ _⟩
theorem group1A (hd : Head) (u : Unread) : Statement (.group1A hd u) := ⟨rfl, headerWord_code _ _ _⟩
theorem group1B (hd : Head) (u : Unread) : Statement (.group1B hd u) := ⟨rfl, headerWord_code _ _ _⟩
theorem group2A (hd : Head) (ab : Bool) (seg : BitVec 4) (c0 c1 c2 c3 : Byte) : Statement (.group2A hd ab seg c0 c1 c2 c3) := ⟨rfl, headerWord_code _ _ _⟩
theorem group2B (hd : Head) (ab : Bool) (seg : BitVec 4) (piRepeat : Word) (c0 c1 : Byte) : Statement (.group2B hd ab seg piRepeat c0 c1) := ⟨rfl, headerWord_code _ _ _⟩
theorem group3A (hd : Head) (u : Unread) : Statement (.group3A hd u) := ⟨rfl, headerWord_code _ _ _⟩
theorem group3B (hd : Head) (u : Unread) : Statement (.group3B hd u) := ⟨rfl, headerWord_code _ _ _⟩
theorem group4A (hd : Head) (clock : ClockFields) : Statement (.group4A hd clock) := ⟨rfl, headerWord_code _ _ _⟩
theorem group4B (hd : Head) (u : Unread) : Statement (.group4B hd u) := ⟨rfl, headerWord_code _ _ _⟩
theorem group5A (hd : Head) (u : Unread) : Statement (.group5A hd u) := ⟨rfl, headerWord_code _ _ _⟩
theorem group5B (hd : Head) (u : Unread) : Statement (.group5B hd u) := ⟨rfl, headerWord_code _ _ _⟩
theorem group6A (hd : Head) (u : Unread) : Statement (.group6A hd u) := ⟨rfl, headerWord_code _ _ _⟩
theorem group6B (hd : Head) (u : Unread) : Statement (.group6B hd u) := ⟨rfl, headerWord_code _ _ _⟩
theorem group7A (hd : Head) (u : Unread) : Statement (.group7A hd u) := ⟨rfl, headerWord_code _ _ _⟩
theorem group7B (hd : Head) (u : Unread) : Statement (.group7B hd u) := ⟨rfl, headerWord_code _ _ _⟩
theorem group8A (hd : Head) (tmc : TmcFields) : Statement (.group8A hd tmc) := ⟨rfl, headerWord_code _ _ _⟩
theorem group8B (hd : Head) (u : Unread) : Statement (.group8B hd u) := ⟨rfl, headerWord_code _ _ _⟩
theorem group9A (hd : Head) (u : Unread) : Statement (.group9A hd u) := ⟨rfl, headerWord_code _ _ _⟩
theorem group9B (hd : Head) (u : Unread) : Statement (.group9B hd u) := ⟨rfl, headerWord_code _ _ _⟩
theorem group10A (hd : Head) (u : Unread) : Statement (.group10A hd u) := ⟨rfl, headerWord_code _ _ _⟩
theorem group10B (hd : Head) (u : Unread) : Statement (.group10B hd u) := ⟨rfl, headerWord_code _ _ _⟩
theorem group11A (hd : Head) (u : Unread) : Statement (.group11A hd u) := ⟨rfl, headerWord_code _ _ _⟩
theorem group11B (hd : Head) (u : Unread) : Statement (.group11B hd u) := ⟨rfl, headerWord_code _ _ _⟩
theorem group12A (hd : Head) (u : Unread) : Statement (.group12A hd u) := ⟨rfl, headerWord_code _ _ _⟩
theorem group12B (hd : Head) (u : Unread) : Statement (.group12B hd u) := ⟨rfl, headerWord_code _ _ _⟩
theorem group13A (hd : Head) (u : Unread) : Statement (.group13A hd u) := ⟨rfl, headerWord_code _ _ _⟩
theorem group13B (hd : Head) (u : Unread) : Statement (.group13B hd u) := ⟨rfl, headerWord_code _ _ _⟩
theorem group14A (hd : Head) (u : Unread) : Statement (.group14A hd u) := ⟨rfl, headerWord_code _ _ _⟩
theorem group14B (hd : Head) (u : Unread) : Statement (.group14B hd u) := ⟨rfl, headerWord_code _ _ _⟩
theorem group15A (hd : Head) (u : Unread) : Statement (.group15A hd u) := ⟨rfl, headerWord_code _ _ _⟩
theorem group15B (hd : Head) (u : Unread) : Statement (.group15B hd u) := ⟨rfl, headerWord_code _ _ _⟩

end TableRowFits

end Sys2Proof.Laws
end

