-- ==== Sys2Proof/Laws/Step.lean ====
section
/-! SUPPORT. What one step can do. -/

namespace Sys2Proof.Machine

/-- One step, once for all: nothing is offered; an operation runs; a request line is low; a byte is drained; the
configuration inputs change; or a clock edge expands. -/
theorem step_cases {s t : State} (h : step s = .next t) :
    s.params.legal = true ∧
    ((s.inputs = [] ∧ t = s) ∨
     ∃ e rest, s.inputs = e :: rest ∧
      ((∃ w i, e = .op w ∧ decode w = .ok i ∧ exec i (s.setInputs rest) = .next t) ∨
       (∃ w err, e = .op w ∧ decode w = .error err ∧ t = s.setInputs rest) ∨
       (e = .drain ∧ s.chan.fifo ≠ [] ∧ t = (s.setInputs rest).setChan (drainByte s.chan)) ∨
       (∃ l r, e = .cfgInputs l r ∧
          t = { s.setInputs rest with ports := { s.ports with cfgPtyLocale := l, cfgEmitRawGroup := r } }) ∨
       (∃ k, e = .clock k ∧ t = clockEdge k (s.setInputs rest)))) := by
  unfold step fetch at h
  by_cases hp : s.params.legal = true
  · refine ⟨hp, ?_⟩
    simp only [hp, if_true] at h
    cases hin : s.inputs with
    | nil => simp [hin] at h; exact .inl ⟨rfl, h.symm⟩
    | cons e rest =>
      refine .inr ⟨e, rest, rfl, ?_⟩
      simp only [hin] at h
      cases e with
      | op w =>
        cases hd : decode w with
        | ok i => simp only [fetchEvent, hd] at h; exact .inl ⟨w, i, rfl, hd, h⟩
        | error err =>
          simp only [fetchEvent, hd, Host.Outcome.next.injEq] at h
          exact .inr (.inl ⟨w, err, rfl, hd, h.symm⟩)
      | drain =>
        by_cases hf : s.chan.fifo = []
        · simp [fetchEvent, hf] at h
        · simp [fetchEvent, hf] at h
          exact .inr (.inr (.inl ⟨rfl, hf, h.symm⟩))
      | cfgInputs l r =>
        simp only [fetchEvent, Host.Outcome.next.injEq] at h
        exact .inr (.inr (.inr (.inl ⟨l, r, rfl, h.symm⟩)))
      | clock k =>
        simp only [fetchEvent, Host.Outcome.next.injEq] at h
        exact .inr (.inr (.inr (.inr ⟨k, rfl, h.symm⟩)))
  · simp [hp] at h

/-- A clock edge always settles: its ports are taken and its events are put before those still to come. -/
theorem step_clock {s : State} {e : Edge} {rest : List Event} (hp : s.params.legal = true)
    (h : s.inputs = .clock e :: rest) : step s = .next (clockEdge e (s.setInputs rest)) := by
  simp [step, fetch, hp, h, fetchEvent]

end Sys2Proof.Machine
end

