-- ==== Sys2Proof/Tests/Slice0.lean ====
section
/-! SUPPORT. The model's own tests: what is well formed, words written out from the spec's encodings, single steps with the
results of spec/95_test_vectors.md, and for every statement with hypotheses a state and operands that meet them. -/

namespace Sys2Proof.Tests

-- One theorem at a time: the kernel evaluations below would else wait on each other in many threads.
set_option Elab.async false

open Sys2Proof Sys2Proof.Machine

/-! ## Well-formedness smoke (R6, R322) -/

def params (w d f : Nat) : Params := { defaultParams with bitctrW := w, afListDepth := d, msgFifoBytes := f }

theorem test_default_params_legal : defaultParams.legal = true := by decide
theorem test_least_params_legal : (params 8 2 1024).legal = true := by decide
theorem test_greatest_params_legal : (params 64 1024 65536).legal = true := by decide
theorem test_bitctr_w_too_small_refused : (params 7 64 4096).legal = false := by decide
theorem test_bitctr_w_too_large_refused : (params 65 64 4096).legal = false := by decide
theorem test_af_list_depth_too_small_refused : (params 32 1 4096).legal = false := by decide
theorem test_af_list_depth_too_large_refused : (params 32 1025 4096).legal = false := by decide
theorem test_msg_fifo_too_small_refused : (params 32 64 1023).legal = false := by decide
theorem test_msg_fifo_too_large_refused : (params 32 64 65537).legal = false := by decide
theorem test_low_context_reset_refused : (OpWord.ctxResetPort 0#1).wellFormed = false := by decide
theorem test_low_hard_reset_refused : (OpWord.rstPort 0#1).wellFormed = false := by decide
theorem test_every_other_word_well_formed :
    (OpWord.bitPort 0#1).wellFormed && (OpWord.bitPort 1#1).wellFormed && (OpWord.ctxResetPort 1#1).wellFormed &&
      (OpWord.rstPort 1#1).wellFormed && (OpWord.group ⟨0, 0xF800#16, 0, 0⟩).wellFormed = true := by decide

/-! ## Decoding: every row's word written bit by bit from R84, R88 to R92 and R322

Block 1 is four bits of type, the version, TP, five bits of PTY and five type-specific bits. -/

theorem test_decode_bit0 : decode (.bitPort 0#1) = .ok .bit0 := by decide
theorem test_decode_bit1 : decode (.bitPort 1#1) = .ok .bit1 := by decide
theorem test_decode_ctx_reset : decode (.ctxResetPort 1#1) = .ok .ctxReset := by decide
theorem test_decode_hard_reset : decode (.rstPort 1#1) = .ok .hardReset := by decide
theorem test_decode_no_context_reset : decode (.ctxResetPort 0#1) = .error .noContextReset := by decide
theorem test_decode_no_hard_reset : decode (.rstPort 0#1) = .error .noHardReset := by decide

/-- R89: TA 1, MS 0, DI 1, segment 2; AF codes 0xE2 and 0x01; characters "TT". -/
theorem test_decode_group_0A :
    decode (.group ⟨0x1234#16, 0b0000010001110110#16, 0xE201#16, 0x5454#16⟩) =
      .ok (.group0A ⟨0x1234#16, true, 3#5⟩ ⟨true, false, true, 2#2⟩ 226#8 1#8 0x54#8 0x54#8) := by decide

/-- R89: TA 0, MS 1, DI 0, segment 3. -/
theorem test_decode_group_0B :
    decode (.group ⟨0xD318#16, 0b0000110101001011#16, 0xD318#16, 0x4453#16⟩) =
      .ok (.group0B ⟨0xD318#16, true, 10#5⟩ ⟨false, true, false, 3#2⟩ 0xD318#16 0x44#8 0x53#8) := by decide

/-- R90: text flag 1, segment 14. -/
theorem test_decode_group_2A :
    decode (.group ⟨0xD318#16, 0b0010000000111110#16, 0x4845#16, 0x4C4F#16⟩) =
      .ok (.group2A ⟨0xD318#16, false, 1#5⟩ true 14#4 0x48#8 0x45#8 0x4C#8 0x4F#8) := by decide

/-- R90: text flag 0, segment 1. -/
theorem test_decode_group_2B :
    decode (.group ⟨0xD318#16, 0b0010100000000001#16, 0xD318#16, 0x210D#16⟩) =
      .ok (.group2B ⟨0xD318#16, false, 0#5⟩ false 1#4 0xD318#16 0x21#8 0x0D#8) := by decide

/-- R91: MJD 0b1_0000_0000_0000_0001 across two words, hour 0b10001, minute 0b100001, offset -3; V-CLK-5's shape. -/
theorem test_decode_group_4A :
    decode (.group ⟨0xD318#16, 0b0100000000010110#16, 0b0000000000000011#16, 0b0001100001100011#16⟩) =
      .ok (.group4A ⟨0xD318#16, false, 0#5⟩ ⟨0b101#3, 0x10001#17, 17#5, 33#6, true, 3#5⟩) := by decide

/-- R92, R264: T 0, F 1, CI 5; first 1, sg 0, gsi 2, free format 0x1234567. -/
theorem test_decode_group_8A :
    decode (.group ⟨0xD318#16, 0b1000000000001101#16, 0b1010000100100011#16, 0x4567#16⟩) =
      .ok (.group8A ⟨0xD318#16, false, 0#5⟩ ⟨false, true, 5#3, true, false, 2#2, 0x1234567#28⟩) := by decide

theorem test_decode_group_1A :
    decode (.group ⟨0xD318#16, 0b0001010010110011#16, 0x1111#16, 0x2222#16⟩) =
      .ok (.group1A ⟨0xD318#16, true, 5#5⟩ ⟨0b10011#5, 0x1111#16, 0x2222#16⟩) := by decide

theorem test_decode_group_1B :
    decode (.group ⟨0xD318#16, 0b0001110010110011#16, 0x1111#16, 0x2222#16⟩) =
      .ok (.group1B ⟨0xD318#16, true, 5#5⟩ ⟨0b10011#5, 0x1111#16, 0x2222#16⟩) := by decide

theorem test_decode_group_3A :
    decode (.group ⟨0xD318#16, 0b0011010010110011#16, 0x1111#16, 0x2222#16⟩) =
      .ok (.group3A ⟨0xD318#16, true, 5#5⟩ ⟨0b10011#5, 0x1111#16, 0x2222#16⟩) := by decide

theorem test_decode_group_3B :
    decode (.group ⟨0xD318#16, 0b0011110010110011#16, 0x1111#16, 0x2222#16⟩) =
      .ok (.group3B ⟨0xD318#16, true, 5#5⟩ ⟨0b10011#5, 0x1111#16, 0x2222#16⟩) := by decide

theorem test_decode_group_4B :
    decode (.group ⟨0xD318#16, 0b0100110010110011#16, 0x1111#16, 0x2222#16⟩) =
      .ok (.group4B ⟨0xD318#16, true, 5#5⟩ ⟨0b10011#5, 0x1111#16, 0x2222#16⟩) := by decide

theorem test_decode_group_5A :
    decode (.group ⟨0xD318#16, 0b0101010010110011#16, 0x1111#16, 0x2222#16⟩) =
      .ok (.group5A ⟨0xD318#16, true, 5#5⟩ ⟨0b10011#5, 0x1111#16, 0x2222#16⟩) := by decide

theorem test_decode_group_5B :
    decode (.group ⟨0xD318#16, 0b0101110010110011#16, 0x1111#16, 0x2222#16⟩) =
      .ok (.group5B ⟨0xD318#16, true, 5#5⟩ ⟨0b10011#5, 0x1111#16, 0x2222#16⟩) := by decide

theorem test_decode_group_6A :
    decode (.group ⟨0xD318#16, 0b0110010010110011#16, 0x1111#16, 0x2222#16⟩) =
      .ok (.group6A ⟨0xD318#16, true, 5#5⟩ ⟨0b10011#5, 0x1111#16, 0x2222#16⟩) := by decide

theorem test_decode_group_6B :
    decode (.group ⟨0xD318#16, 0b0110110010110011#16, 0x1111#16, 0x2222#16⟩) =
      .ok (.group6B ⟨0xD318#16, true, 5#5⟩ ⟨0b10011#5, 0x1111#16, 0x2222#16⟩) := by decide

theorem test_decode_group_7A :
    decode (.group ⟨0xD318#16, 0b0111010010110011#16, 0x1111#16, 0x2222#16⟩) =
      .ok (.group7A ⟨0xD318#16, true, 5#5⟩ ⟨0b10011#5, 0x1111#16, 0x2222#16⟩) := by decide

theorem test_decode_group_7B :
    decode (.group ⟨0xD318#16, 0b0111110010110011#16, 0x1111#16, 0x2222#16⟩) =
      .ok (.group7B ⟨0xD318#16, true, 5#5⟩ ⟨0b10011#5, 0x1111#16, 0x2222#16⟩) := by decide

theorem test_decode_group_8B :
    decode (.group ⟨0xD318#16, 0b1000110010110011#16, 0x1111#16, 0x2222#16⟩) =
      .ok (.group8B ⟨0xD318#16, true, 5#5⟩ ⟨0b10011#5, 0x1111#16, 0x2222#16⟩) := by decide

theorem test_decode_group_9A :
    decode (.group ⟨0xD318#16, 0b1001010010110011#16, 0x1111#16, 0x2222#16⟩) =
      .ok (.group9A ⟨0xD318#16, true, 5#5⟩ ⟨0b10011#5, 0x1111#16, 0x2222#16⟩) := by decide

theorem test_decode_group_9B :
    decode (.group ⟨0xD318#16, 0b1001110010110011#16, 0x1111#16, 0x2222#16⟩) =
      .ok (.group9B ⟨0xD318#16, true, 5#5⟩ ⟨0b10011#5, 0x1111#16, 0x2222#16⟩) := by decide

theorem test_decode_group_10A :
    decode (.group ⟨0xD318#16, 0b1010010010110011#16, 0x1111#16, 0x2222#16⟩) =
      .ok (.group10A ⟨0xD318#16, true, 5#5⟩ ⟨0b10011#5, 0x1111#16, 0x2222#16⟩) := by decide

theorem test_decode_group_10B :
    decode (.group ⟨0xD318#16, 0b1010110010110011#16, 0x1111#16, 0x2222#16⟩) =
      .ok (.group10B ⟨0xD318#16, true, 5#5⟩ ⟨0b10011#5, 0x1111#16, 0x2222#16⟩) := by decide

theorem test_decode_group_11A :
    decode (.group ⟨0xD318#16, 0b1011010010110011#16, 0x1111#16, 0x2222#16⟩) =
      .ok (.group11A ⟨0xD318#16, true, 5#5⟩ ⟨0b10011#5, 0x1111#16, 0x2222#16⟩) := by decide

theorem test_decode_group_11B :
    decode (.group ⟨0xD318#16, 0b1011110010110011#16, 0x1111#16, 0x2222#16⟩) =
      .ok (.group11B ⟨0xD318#16, true, 5#5⟩ ⟨0b10011#5, 0x1111#16, 0x2222#16⟩) := by decide

theorem test_decode_group_12A :
    decode (.group ⟨0xD318#16, 0b1100010010110011#16, 0x1111#16, 0x2222#16⟩) =
      .ok (.group12A ⟨0xD318#16, true, 5#5⟩ ⟨0b10011#5, 0x1111#16, 0x2222#16⟩) := by decide

theorem test_decode_group_12B :
    decode (.group ⟨0xD318#16, 0b1100110010110011#16, 0x1111#16, 0x2222#16⟩) =
      .ok (.group12B ⟨0xD318#16, true, 5#5⟩ ⟨0b10011#5, 0x1111#16, 0x2222#16⟩) := by decide

theorem test_decode_group_13A :
    decode (.group ⟨0xD318#16, 0b1101010010110011#16, 0x1111#16, 0x2222#16⟩) =
      .ok (.group13A ⟨0xD318#16, true, 5#5⟩ ⟨0b10011#5, 0x1111#16, 0x2222#16⟩) := by decide

theorem test_decode_group_13B :
    decode (.group ⟨0xD318#16, 0b1101110010110011#16, 0x1111#16, 0x2222#16⟩) =
      .ok (.group13B ⟨0xD318#16, true, 5#5⟩ ⟨0b10011#5, 0x1111#16, 0x2222#16⟩) := by decide

theorem test_decode_group_14A :
    decode (.group ⟨0xD318#16, 0b1110010010110011#16, 0x1111#16, 0x2222#16⟩) =
      .ok (.group14A ⟨0xD318#16, true, 5#5⟩ ⟨0b10011#5, 0x1111#16, 0x2222#16⟩) := by decide

theorem test_decode_group_14B :
    decode (.group ⟨0xD318#16, 0b1110110010110011#16, 0x1111#16, 0x2222#16⟩) =
      .ok (.group14B ⟨0xD318#16, true, 5#5⟩ ⟨0b10011#5, 0x1111#16, 0x2222#16⟩) := by decide

theorem test_decode_group_15A :
    decode (.group ⟨0xD318#16, 0b1111010010110011#16, 0x1111#16, 0x2222#16⟩) =
      .ok (.group15A ⟨0xD318#16, true, 5#5⟩ ⟨0b10011#5, 0x1111#16, 0x2222#16⟩) := by decide

theorem test_decode_group_15B :
    decode (.group ⟨0xD318#16, 0b1111110010110011#16, 0x1111#16, 0x2222#16⟩) =
      .ok (.group15B ⟨0xD318#16, true, 5#5⟩ ⟨0b10011#5, 0x1111#16, 0x2222#16⟩) := by decide

/-- A table word of 16 bits is block 1 with the other blocks 0 (log 1). -/
theorem test_table_word_group_14A :
    decodeTableWord 16 0xE060 = some (.group14A ⟨0#16, false, 3#5⟩ ⟨0#5, 0#16, 0#16⟩) := by decide

theorem test_table_word_bit0 : decodeTableWord 8 0x0 = some .bit0 := by decide

/-! ## The named operations -/

/-- V-SYN-2. -/
theorem test_syndrome_of_words :
    ([0x0000#16, 0x0001#16, 0x8000#16, 0x0D4C#16, 0xD318#16, 0xFFFF#16].map fun m => syndrome m) =
      [0x000#10, 0x1B9#10, 0x077#10, 0x09C#10, 0x043#10, 0x0CD#10] := by decide +kernel

/-- V-SYN-1. -/
theorem test_syndrome_of_offsets :
    (Offset.all.map fun j => syndrome (j.word.zeroExtend 26)) = [383#10, 14#10, 303#10, 663#10, 748#10] := by
  decide +kernel

/-- V-SYN-3 and the blocks of V-SYN-7. -/
theorem test_sent_blocks :
    sentBlock 0xD318#16 .a = 0x34C60BF#26 ∧ sentBlock 0xD318#16 .c = 0x34C612B#26 ∧
      sentBlock 0xD318#16 .cPrime = 0x34C6313#26 := by decide +kernel

/-- V-SYN-5, V-SYN-6: no match. -/
theorem test_corrupted_block_syndromes :
    syndrome 0x34C60BE#26 = 198#10 ∧ syndrome 0x34C62BF#26 = 199#10 ∧ syndrome 0x34C64BF#26 = 527#10 ∧
      syndrome 0x14C60BF#26 = 422#10 ∧ syndrome 0x34C6340#26 = 943#10 := by decide +kernel

/-- V-SYN-7. -/
theorem test_block_check_position_2 : blockGood 0x34C612B#26 2#2 && blockGood 0x34C6313#26 2#2 = true := by decide +kernel

/-- V-SYN-8. -/
theorem test_block_check_wrong_position : blockGood 0x34C60BF#26 2#2 || blockGood 0x34C60BF#26 1#2 = false := by
  decide +kernel

/-- The dates of V-CLK-1, -2, -4, -5, -6 and of the list after the table. -/
theorem test_dates :
    [58849, 58884, 15079, 131071, 51544, 60000, 15137, 59945].map mjdToDate =
      [⟨1, 1, 2020⟩, ⟨5, 2, 2020⟩, ⟨1, 3, 1900⟩, ⟨25, 9, 2217⟩, ⟨1, 1, 2000⟩, ⟨25, 2, 2023⟩, ⟨28, 4, 1900⟩,
        ⟨1, 1, 2023⟩] := by decide

/-- V-MSG-1. -/
theorem test_frames :
    frame ⟨.pi, ascii "D318"⟩ = [0x00, 0x00, 0x04, 0x44, 0x33, 0x31, 0x38] ∧
    frame ⟨.pty, ascii "Pop Music"⟩ = [0x02, 0x00, 0x09, 0x50, 0x6F, 0x70, 0x20, 0x4D, 0x75, 0x73, 0x69, 0x63] ∧
    frame ⟨.flags, ascii "1010001"⟩ = [0x03, 0x00, 0x07, 0x31, 0x30, 0x31, 0x30, 0x30, 0x30, 0x31] ∧
    frame ⟨.ps, ascii "GQRX RDS"⟩ = [0x01, 0x00, 0x08, 0x47, 0x51, 0x52, 0x58, 0x20, 0x52, 0x44, 0x53] := by decide

/-! ## Single steps -/

/-- The state an operation leaves. -/
def after (i : Instr) (s : State) : State :=
  match exec i s with
  | .next t => t
  | .fault f => nomatch f
  | .refused _ => s

/-- The state that decoding a group leaves. -/
def afterGroup (b0 b1 b2 b3 : Nat) (s : State) : State :=
  after (decodeGroup ⟨BitVec.ofNat 16 b0, BitVec.ofNat 16 b1, BitVec.ofNat 16 b2, BitVec.ofNat 16 b3⟩) s

/-- A short message's bytes: kind, length, text (R283). -/
def msg (kind : Byte) (text : String) : List Byte := [kind, 0#8, BitVec.ofNat 8 (ascii text).length] ++ ascii text

/-- The reset state but for its synchronizer. -/
def syncAt (y : Synchronizer) : State := State.reset.setSynchronizer y

/-- The reset state but for its context, of PI D318. -/
def tunedTo (c : StationContext) : State := State.reset.setCtx { c with pi := 0xD318#16 }

/-- A state before a bit: the window that `word`'s last bit completes, and the counters. -/
def beforeLastBit (st : SyncState) (word : BitVec 26) (count : Nat) (last : Offset) (lastCount : Nat) : Synchronizer :=
  { Synchronizer.reset with
    syncState := st, window := word >>> 1, bitCounter := count, lastOffset := last, lastCounter := lastCount }

/-- A state in Sync whose next bit completes `word` at position `p`. -/
def blockDue (word : BitVec 26) (p : BitVec 2) (blocks wrong : BitVec 6) : Synchronizer :=
  { Synchronizer.reset with
    syncState := .sync, window := word >>> 1, blockBitCounter := 25, blockNumber := p,
    blocksCounter := blocks, wrongBlocksCounter := wrong }

/-- P1: PreSync on A at bit 25. -/
theorem test_bit1_enters_presync :
    let t := after .bit1 (syncAt (beforeLastBit .noSync 0x34C60BF#26 25 .d 7))
    (t.synchronizer.syncState, t.synchronizer.lastOffset, t.synchronizer.lastCounter, t.synchronizer.bitCounter,
      t.synchronizer.window) = (.preSync, .a, 25, 26, 0x34C60BF#26) := by decide +kernel

/-- V-SYNC-7: the 36th bad block of 50 loses Sync, and both counters start again. -/
theorem test_bit1_quality_check_loses_sync :
    let t := after .bit1 (syncAt (blockDue 0x34C6341#26 0#2 49#6 35#6))
    (t.synchronizer.syncState, t.synchronizer.blocksCounter, t.synchronizer.wrongBlocksCounter) =
      (.noSync, 0#6, 0#6) := by decide +kernel

/-- P1: Sync on B at bit 51 with block number 2. -/
theorem test_bit0_locks :
    let t := after .bit0 (syncAt (beforeLastBit .preSync 0x0352C92#26 51 .a 25))
    (t.synchronizer.syncState, t.synchronizer.blockNumber, t.synchronizer.bitCounter) = (.sync, 2#2, 52) := by
  decide +kernel

/-- V-SYNC-10: the distance is taken modulo 2^32. -/
theorem test_bit0_locks_across_the_wrap :
    let t := after .bit0 (syncAt (beforeLastBit .preSync (sentBlock 0x0D4C#16 .b) 21 .a (2 ^ 32 - 5)))
    (t.synchronizer.syncState, t.synchronizer.blockNumber, t.synchronizer.bitCounter) = (.sync, 2#2, 22) := by
  decide +kernel

/-- V-MSG-5. -/
theorem test_ctx_reset_keeps_the_queue :
    let t := after .ctxReset (State.reset.setChan ⟨List.replicate 1021 0x41#8, 2#16⟩)
    (t.chan.fifo.length, t.chan.dropCount) = (1021, 2#16) := by decide +kernel

/-- V-RST-2: the assembly is cleared and the context is fresh. -/
theorem test_ctx_reset_clears :
    let t := after .ctxReset ((tunedTo { freshContext 0 with psMask := 0b0111#4 }).setAssembler
      ⟨#v[1#16, 2#16, 3#16, 4#16], 3#3, true⟩)
    (t.assembler.inProgress, t.assembler.goodCount, t.ctx.pi, t.ctx.psMask) = (false, 0#3, 0x0000#16, 0#4) := by decide

/-- V-RST-1: the queue is emptied and the counting restarts. -/
theorem test_hard_reset_resets :
    let t := after .hardReset ((syncAt (blockDue 0x34C60BF#26 2#2 7#6 3#6)).setChan ⟨[1#8, 2#8], 5#16⟩)
    (t.synchronizer.syncState, t.synchronizer.bitCounter, t.synchronizer.window, t.chan.fifo, t.chan.dropCount) =
      (.noSync, 0, 0#26, [], 0#16) := by decide

/-- R40: the configuration inputs are sampled. -/
theorem test_hard_reset_samples_configuration :
    (after .hardReset { State.reset with ports := ⟨true, false, 3, true⟩ }).conf = ⟨true, false⟩ := by decide

/-- V-AF-1, the second group; P3's order of messages. -/
theorem test_group_0A_frequencies :
    let t := afterGroup 0xD318 0x0000 0x02CD 0x2020 (tunedTo { freshContext 0 with afList := [(226#8, 1#8)] })
    t.chan.fifo = msg 0 "D318" ++ msg 2 "Undefined" ++ msg 6 "87.6 MHz, 87.7 MHz" ++ msg 3 "0000000" ∧
      t.ctx.afList = [(226#8, 1#8), (2#8, 205#8)] := by decide +kernel

/-- V-AF-8, the second group: a repeated pair. -/
theorem test_group_0A_repeated_pair :
    let t := afterGroup 0xD318 0x0000 0xE105 0x2020 (tunedTo { freshContext 0 with afList := [(225#8, 5#8)] })
    t.chan.fifo = msg 0 "D318" ++ msg 2 "Undefined" ++ msg 3 "0000000" ∧ t.ctx.afList.length = 1 := by decide +kernel

/-- V-FLG-1. -/
theorem test_group_0B_flags :
    let t := afterGroup 0xD318 0x0C04 0xD318 0x4751 State.reset
    t.chan.fifo = msg 0 "D318" ++ msg 2 "Undefined" ++ msg 3 "1000001" ∧ t.ctx.dynamicPty = true := by decide +kernel

/-- V-PS-4, the last group: a changed segment clears the mask. -/
theorem test_group_0B_changed_segment :
    let t := afterGroup 0xD318 0x0803 0xD318 0x5A5A
      (tunedTo { freshContext 0 with
        psBuf := #v[0x20, 0x20, 0x20, 0x20, 0x20, 0x20, 0x44, 0x53], psSeen := 0b1000#4, psMask := 0b1000#4 })
    (t.ctx.psMask, t.ctx.psSeen, t.ctx.psBuf.toList) = (0#4, 0b1000#4, ascii "      ZZ") := by decide +kernel

/-- V-DIS-5: RawGroup goes first. -/
theorem test_group_1A_raw_group :
    (afterGroup 0xD318 0x1000 0x1111 0x2222 { State.reset with conf := ⟨false, true⟩ }).chan.fifo =
      [0x07, 0x00, 0x08, 0xD3, 0x18, 0x10, 0x00, 0x11, 0x11, 0x22, 0x22] ++ msg 0 "D318" ++ msg 2 "Undefined" := by
  decide +kernel

/-- V-DIS-6. -/
theorem test_group_1A_locale :
    (afterGroup 0xD318 0x1140 0x0000 0x0000 { State.reset with conf := ⟨true, false⟩ }).chan.fifo =
      msg 0 "D318" ++ msg 2 "Country" := by decide +kernel

/-- V-RT-1, the s1 group. -/
theorem test_group_2A_text :
    (afterGroup 0xD318 0x2001 0x4F0D 0x0000
      (tunedTo { freshContext 0 with
        rtBuf := writeText4 (Vector.replicate 64 0x20) 0#4 0x48 0x45 0x4C 0x4C, rtMask := 1#16 })).chan.fifo =
      msg 0 "D318" ++ msg 2 "Undefined" ++ msg 4 "HELLO" := by decide +kernel

/-- V-RT-7: an empty text is a message. -/
theorem test_group_2A_empty_text :
    (afterGroup 0xD318 0x2000 0x0D58 0x595A State.reset).chan.fifo =
      msg 0 "D318" ++ msg 2 "Undefined" ++ [0x04, 0x00, 0x00] := by decide +kernel

/-- V-RT-3, the s1 group. -/
theorem test_group_2B_text :
    (afterGroup 0xD318 0x2801 0xD318 0x210D
      (tunedTo { freshContext 0 with
        rtBuf := (Vector.replicate 64 0x20).setIfInBounds 0 0x48 |>.setIfInBounds 1 0x49, rtMask := 1#16 })).chan.fifo =
      msg 0 "D318" ++ msg 2 "Undefined" ++ msg 4 "HI!" := by decide +kernel

/-- V-RT-6, the s15 group: a full 2B buffer is not emitted. -/
theorem test_group_2B_full_buffer :
    let t := afterGroup 0xD318 0x280F 0xD318 0x6162
      (tunedTo { freshContext 0 with rtBuf := Vector.replicate 64 0x61, rtMask := 0x7FFF#16 })
    t.chan.fifo = msg 0 "D318" ++ msg 2 "Undefined" ∧ t.ctx.rtMask = 0xFFFF#16 := by decide +kernel

/-- V-CLK-5. -/
theorem test_group_4A_last_date :
    (afterGroup 0xD318 0x4003 0xFFFF 0x7EE3 State.reset).chan.fifo =
      msg 0 "D318" ++ msg 2 "Undefined" ++ msg 5 "25.09.2217, 23:59 (-1.5h)" := by decide +kernel

/-- V-CLK-3: below MJD 15079 no clock time. -/
theorem test_group_4A_below_the_range :
    (afterGroup 0xD318 0x4000 0x75CC 0x0000 State.reset).chan.fifo = msg 0 "D318" ++ msg 2 "Undefined" := by
  decide +kernel

/-- V-TMC-1. -/
theorem test_group_8A_subsequent :
    let t := afterGroup 0xD318 0x8005 0x6123 0x4567 State.reset
    (t.ctx.tmcCi, t.ctx.tmcNoGroups, t.ctx.tmcFf.toList) = (5#3, 2#2, [0#28, 0#28, 0x1234567#28, 0#28]) := by
  decide +kernel

/-- V-TMC-4. -/
theorem test_group_8A_first :
    let t := afterGroup 0xD318 0x8003 0x8123 0x4567 State.reset
    (t.ctx.tmcCi, t.ctx.tmcNoGroups, t.ctx.tmcFf.toList) = (3#3, 0#2, [0#28, 0#28, 0#28, 0#28]) := by decide +kernel

/-- V-DIS-2. -/
theorem test_group_14A :
    (afterGroup 0xD318 0xE060 0x0001 0x0002 State.reset).chan.fifo = msg 0 "D318" ++ msg 2 "Information" := by
  decide +kernel

/-- V-DIS-4. -/
theorem test_group_8B :
    let t := afterGroup 0xD318 0x8805 0x6123 0x4567 State.reset
    t.chan.fifo = msg 0 "D318" ++ msg 2 "Undefined" ∧ t.ctx.tmcCi = 0#3 := by decide +kernel

/-- V-MSG-2: the frame that does not fit is dropped whole. -/
theorem test_full_queue_drops_whole_frames :
    let t := afterGroup 0xD318 0x10A0 0x1111 0x2222
      { State.reset with params := params 32 64 1024, chan := ⟨List.replicate 1014 0x41#8, 0#16⟩ }
    (t.chan.fifo.length, t.chan.dropCount) = (1021, 1#16) := by decide +kernel

/-- R324: DRAIN is an event of its own. -/
theorem test_drain_takes_the_head :
    (match step { State.reset with chan := ⟨[7#8, 8#8], 0#16⟩, inputs := [.drain] } with
      | .next t => t.chan.fifo
      | _ => []) = [8#8] := by decide

/-! ## Witnesses: a state and operands that meet a statement's hypotheses -/

theorem witness_EncodeOfDecodeIsIdentity :
    (OpWord.rstPort 1#1).wellFormed = true ∧ (OpWord.group ⟨0xD318, 0xF800, 0, 0⟩).wellFormed = true ∧
      (OpWord.rstPort 0#1).wellFormed = false := by decide

theorem witness_BitShiftsAndCounts :
    let s := syncAt (beforeLastBit .noSync 0x34C60BF#26 25 .d 7)
    s.synchronizer.syncState ≠ .preSync ∧ exec (bitInstr true) s = .next (after .bit1 s) ∧
      (after .bit1 s).synchronizer.syncState = .preSync := ⟨by decide, rfl, by decide +kernel⟩

theorem witness_WindowHoldsTheLast26Bits : State.reset.params.legal = true := by decide

/-- In each of the three states that search. -/
theorem witness_SearchWithoutMatchOnlyShifts :
    ∀ st ∈ [SyncState.noSync, .preSync, .reserved],
      let s := syncAt { Synchronizer.reset with syncState := st }
      s.synchronizer.syncState ≠ .sync ∧ ∀ j : Offset, syndrome (windowAfter true s) ≠ j.syndromeOf := by
  intro st h
  simp only [List.mem_cons, List.not_mem_nil, or_false] at h
  rcases h with rfl | rfl | rfl <;> exact ⟨by decide, fun j => by cases j <;> decide +kernel⟩

theorem witness_FirstMatchEntersPreSync :
    ∀ st ∈ [SyncState.noSync, .reserved],
      let s := syncAt (beforeLastBit st 0x34C60BF#26 25 .d 7)
      (s.synchronizer.syncState = .noSync ∨ s.synchronizer.syncState = .reserved) ∧
        syndrome (windowAfter true s) = Offset.a.syndromeOf := by decide +kernel

/-- P1's B, 26 bits after A. -/
theorem witness_SecondMatchLocksOrDrops_next :
    let s := syncAt (beforeLastBit .preSync 0x0352C92#26 51 .a 25)
    s.synchronizer.syncState = .preSync ∧ syndrome (windowAfter false s) = Offset.b.syndromeOf ∧ DistanceFits .b s :=
  ⟨rfl, by decide +kernel, 1, by decide, by decide, by decide, by decide⟩

/-- V-SYNC-4's A after A, four blocks on, here across the counter's wrap. -/
theorem witness_SecondMatchLocksOrDrops_farthest :
    let s := syncAt (beforeLastBit .preSync 0x34C60BF#26 99 .a (2 ^ 32 - 5))
    s.synchronizer.syncState = .preSync ∧ syndrome (windowAfter true s) = Offset.a.syndromeOf ∧ DistanceFits .a s :=
  ⟨rfl, by decide +kernel, 4, by decide, by decide, by decide, by decide⟩

/-- V-SYNC-3's C, 26 bits after A. -/
theorem witness_SecondMatchLocksOrDrops_drop :
    let s := syncAt (beforeLastBit .preSync 0x34C612B#26 51 .a 25)
    s.synchronizer.syncState = .preSync ∧ syndrome (windowAfter true s) = Offset.c.syndromeOf ∧ ¬ DistanceFits .c s := by
  refine ⟨rfl, by decide +kernel, ?_⟩
  rintro ⟨bd, h1, h4, hp, hd⟩
  interval_cases bd <;> revert hp hd <;> decide

theorem witness_SyncCountsTheBitsOfABlock :
    ∀ n ∈ [0#5, 24#5],
      let s := syncAt { blockDue 0x34C60BF#26 0#2 0#6 0#6 with blockBitCounter := n }
      s.synchronizer.syncState = .sync ∧ s.synchronizer.blockBitCounter.toNat < 25 := by decide

/-- Both ends of both ranges: the 50th block and another. -/
theorem witness_BlockEndChecksCountsAndAdvances :
    ∀ n ∈ [0#6, 48#6, 49#6], ∀ w ∈ [0#6, 49#6],
      let s := syncAt (blockDue 0x34C60BF#26 0#2 n w)
      s.synchronizer.syncState = .sync ∧ s.synchronizer.blockBitCounter.toNat = 25 ∧
        s.synchronizer.blocksCounter.toNat ≤ 49 ∧ s.synchronizer.wrongBlocksCounter.toNat ≤ 49 := by decide

theorem witness_SyncStateMovesAsTheTableSays :
    ∀ st ∈ [SyncState.noSync, .preSync, .sync, .reserved],
      let s := syncAt { blockDue 0x34C6341#26 0#2 49#6 35#6 with syncState := st }
      s.synchronizer.syncState = st ∧ exec (bitInstr true) s = .next (after .bit1 s) := fun _ _ => ⟨rfl, rfl⟩

theorem witness_OnlyBitsAndHardResetMoveTheSynchronizer :
    Instr.ctxReset ≠ .bit0 ∧ Instr.ctxReset ≠ .bit1 ∧ Instr.ctxReset ≠ .hardReset ∧
      exec .ctxReset State.reset = .next (after .ctxReset State.reset) := ⟨by decide, by decide, by decide, rfl⟩

/-- An assembly that has stored `n` blocks, its remaining words holding anything. -/
def assembling (n : BitVec 3) : Assembler := ⟨#v[0xD318, 0x2001, 0x4F0D, 0xAAAA], n, true⟩

theorem witness_AssemblerStartsStoresAndAborts :
    (1#2 ≠ 0#2 ∧ State.reset.assembler.inProgress = false) ∧
    (2#2 ≠ 0#2 ∧ (State.reset.setAssembler (assembling 2#3)).assembler.inProgress = true ∧
      (State.reset.setAssembler (assembling 2#3)).assembler.goodCount.toNat ≤ 2) := by decide

/-- P2's last bit, which completes the s1 group of "HELLO". -/
def lastBitOfGroup : State :=
  (syncAt (blockDue 0x08080DC#26 3#2 7#6 0#6)).setAssembler (assembling 3#3)

theorem lastBitOfGroup_inv : CoreInv lastBitOfGroup :=
  ⟨by decide, ⟨by decide, by decide, by decide, by decide, by decide, by decide⟩,
    ⟨by decide, by decide, fun _ _ => ⟨by decide, by decide⟩⟩,
    Nat.zero_le _, Nat.zero_le _⟩

theorem witness_FourthGoodBlockDecodesTheGroup :
    lastBitOfGroup.synchronizer.syncState = .sync ∧ lastBitOfGroup.synchronizer.blockBitCounter.toNat = 25 ∧
      lastBitOfGroup.synchronizer.blockNumber = 3#2 ∧ lastBitOfGroup.assembler.inProgress = true ∧
      lastBitOfGroup.assembler.goodCount = 3 ∧ blockGood (windowAfter false lastBitOfGroup) 3#2 = true := by
  decide +kernel

theorem witness_NoPartialGroupIsDecoded :
    CoreInv lastBitOfGroup ∧ exec (bitInstr false) lastBitOfGroup = .next (after .bit0 lastBitOfGroup) ∧
      ((after .bit0 lastBitOfGroup).ctx ≠ lastBitOfGroup.ctx ∨ (after .bit0 lastBitOfGroup).chan ≠ lastBitOfGroup.chan) :=
  ⟨lastBitOfGroup_inv, rfl, .inr (by decide +kernel)⟩

/-- Two states that differ in the word still to be stored. -/
theorem witness_StaleGroupWordsAreNeverRead :
    let t := lastBitOfGroup.setAssembler { lastBitOfGroup.assembler with group := #v[0xD318, 0x2001, 0x4F0D, 0x5555] }
    CoreInv lastBitOfGroup ∧ SameButStaleWords lastBitOfGroup t ∧ lastBitOfGroup ≠ t ∧
      exec .bit0 lastBitOfGroup = .next (after .bit0 lastBitOfGroup) :=
  ⟨lastBitOfGroup_inv, ⟨_, rfl, fun _ => by decide⟩, by decide +kernel, rfl⟩

/-! ### Groups -/

def head : Head := ⟨0xD318#16, false, 5#5⟩

def unread : Unread := ⟨0#5, 0x1111#16, 0x2222#16⟩

/-- The words of a no-op group, with its code. -/
def noOpWords (code : BitVec 5) : GroupWords := unreadWords code head unread

theorem witness_EveryGroupAnnouncesItself : encode (.group1A head unread) = .group ⟨0xD318, 0x10A0, 0x1111, 0x2222⟩ := by
  decide

theorem witness_NewPiForgetsTheOldStation :
    encode (.group1A head unread) = .group ⟨0xD318, 0x10A0, 0x1111, 0x2222⟩ ∧
      (freshContext 0x1234#16).pi ≠ (0xD318#16 : Word) := by decide

theorem witness_VersionBBlock2IsNotRead :
    let g : GroupWords := ⟨0xD318, 0x08A0, 0x1111, 0x2222⟩
    let tune : Tuning := ⟨false, false, false, 0⟩
    State.reset.conf.emitRawGroup = false ∧ g.b1.getLsbD 11 = true ∧
      encode (.group0B head tune 0x1111 0x22 0x22) = .group g ∧
      encode (.group0B head tune 0xD318 0x22 0x22) = .group { g with b2 := 0xD318 } := by decide

theorem witness_DescribedNoOpGroupsOnlyAnnounce :
    Instr.group8B head unread ∈ [Instr.group1A head unread, .group1B head unread, .group3A head unread,
      .group3B head unread, .group4B head unread, .group8B head unread] ∧
    [Instr.group1A head unread, .group1B head unread, .group3A head unread, .group3B head unread, .group4B head unread,
      .group8B head unread].map encode = [2, 3, 6, 7, 9, 17].map fun c => .group (noOpWords (BitVec.ofNat 5 c)) := by
  decide

theorem witness_OtherNoOpGroupsOnlyAnnounce :
    let l := [Instr.group5A head unread, .group5B head unread, .group6A head unread, .group6B head unread,
      .group7A head unread, .group7B head unread, .group9A head unread, .group9B head unread, .group10A head unread,
      .group10B head unread, .group11A head unread, .group11B head unread, .group12A head unread, .group12B head unread,
      .group13A head unread, .group13B head unread, .group14A head unread, .group14B head unread, .group15A head unread,
      .group15B head unread]
    Instr.group15B head unread ∈ l ∧
    l.map encode = [10, 11, 12, 13, 14, 15, 18, 19, 20, 21, 22, 23, 24, 25, 26, 27, 28, 29, 30, 31].map
      fun c => .group (noOpWords (BitVec.ofNat 5 c)) := by decide

/-! ### Group type 0 -/

def tuning (di : Bool) (seg : BitVec 2) : Tuning := ⟨false, true, di, seg⟩

/-- Segments 0 and 3 of both versions. -/
theorem witness_Type0WritesItsFlags :
    ∀ seg ∈ [0#2, 3#2],
      let a := Instr.group0A head (tuning true seg) 226 1 0x47 0x51
      let b := Instr.group0B head (tuning true seg) 0xD318 0x47 0x51
      a ∈ [a, b] ∧ b ∈ [a, b] ∧
        encode a = .group (group0AWords head (tuning true seg) 226 1 0x47 0x51) ∧
        encode b = .group (group0BWords head (tuning true seg) 0xD318 0x47 0x51) := by decide

/-- The clause of a changed segment, and that of a new one. -/
theorem witness_Type0UpdatesItsPsSegment :
    let i := Instr.group0B head (tuning false 3#2) 0xD318 0x5A 0x5A
    let g := group0BWords head (tuning false 3#2) 0xD318 0x5A 0x5A
    let s := tunedTo { freshContext 0 with psSeen := 0b1000#4, psMask := 0b1000#4 }
    i ∈ [Instr.group0A head (tuning false 3#2) 226 1 0x5A 0x5A, i] ∧ encode i = .group g ∧
      exec i s = .next (after i s) ∧
      (enteredContext g s).psSeen.getLsbD 3 = true ∧
      (∃ k : Fin 8, k.val / 2 = 3 ∧ (enteredContext g s).psBuf[k] ≠ (after i s).ctx.psBuf[k]) ∧
      (enteredContext g State.reset).psSeen.getLsbD 3 = false := by
  exact ⟨by decide, by decide, rfl, by decide, ⟨7, by decide, by decide +kernel⟩, by decide⟩

theorem witness_Group0BEmitsPsAndFlags :
    encode (.group0B head (tuning true 0#2) 0xD318 0x47 0x51) = .group ⟨0xD318, 0x08AC, 0xD318, 0x4751⟩ := by decide

theorem witness_Group0AEmitsPsFrequenciesAndFlags :
    encode (.group0A head (tuning true 0#2) 226 1 0x47 0x51) = .group ⟨0xD318, 0x00AC, 0xE201, 0x4751⟩ := by decide

/-- The three clauses: a repeated pair, a full list, a list with room. -/
theorem witness_Group0AAppendsItsPair :
    let g : GroupWords := ⟨0xD318, 0x00AC, 0xE201, 0x4751⟩
    let full := { tunedTo { freshContext 0 with afList := [(1#8, 2#8), (3#8, 4#8)] } with params := params 32 2 1024 }
    encode (.group0A head (tuning true 0#2) 226 1 0x47 0x51) = .group g ∧
      (enteredContext g (tunedTo { freshContext 0 with afList := [(226#8, 1#8)] })).afList.getLast? = some (226, 1) ∧
      (enteredContext g full).afList.getLast? ≠ some (226, 1) ∧
      (enteredContext g full).afList.length = full.params.afListDepth ∧
      (enteredContext g State.reset).afList.getLast? ≠ some (226, 1) ∧
      (enteredContext g State.reset).afList.length ≠ State.reset.params.afListDepth := by decide

/-- No first row, and an earliest first row at both ends of its range, behind a row that is none. -/
theorem witness_AfDecodeFollowsTheWalk :
    (∀ p ∈ [((223 : Byte), (9 : Byte)), (250, 224)], ¬ (224 ≤ p.1.toNat ∧ p.1.toNat ≤ 249)) ∧
    ∀ hi ∈ [224#8, 249#8],
      ([(1, 2), (hi, 5), (225, 2)] : List (Byte × Byte)) = [(1, 2)] ++ (hi, 5) :: [(225, 2)] ∧
        (∀ p ∈ [((1 : Byte), (2 : Byte))], ¬ (224 ≤ p.1.toNat ∧ p.1.toNat ≤ 249)) ∧
        224 ≤ hi.toNat ∧ hi.toNat ≤ 249 := by
  refine ⟨by simp, ?_⟩
  intro hi h
  simp only [List.mem_cons, List.not_mem_nil, or_false] at h
  rcases h with rfl | rfl <;> exact ⟨rfl, by simp, by decide, by decide⟩

/-- The ends of the ranges: VHF codes 0 and 255, LF codes 1 and 15, MF codes 16 and 134. -/
theorem witness_DecodedFrequenciesAreInRange :
    afDecode [(231, 0), (255, 1), (250, 1), (250, 15), (250, 16), (250, 134)] =
      some [⟨false, 87500, false⟩, ⟨false, 113000, false⟩, ⟨false, 87600, false⟩, ⟨true, 153, false⟩, ⟨true, 279, false⟩,
        ⟨true, 531, false⟩, ⟨true, 1593, false⟩] := by decide +kernel

/-! ### Group types 2, 4 and 8 -/

theorem witness_Group2AWritesFourCharacters :
    encode (.group2A head true 15#4 0x41 0x42 0x43 0x44) = .group ⟨0xD318, 0x20BF, 0x4142, 0x4344⟩ := by decide

theorem witness_Group2BWritesTwoCharacters :
    encode (.group2B head true 15#4 0xD318 0x41 0x42) = .group ⟨0xD318, 0x28BF, 0xD318, 0x4142⟩ := by decide

/-- A terminator at the text's start (V-RT-7), with one leading segment. -/
theorem witness_RadioTextIsEmittedUpToItsTerminator_first :
    let i := Instr.group2A head false 0#4 0x0D 0x58 0x59 0x5A
    let t := after i State.reset
    (i, 4) ∈ [(i, 4), (Instr.group2B head false 0#4 0xD318 0x0D 0x58, 2)] ∧
      encode i = .group ⟨0xD318, 0x20A0, 0x0D58, 0x595A⟩ ∧ exec i State.reset = .next t ∧
      (1 ≤ 16 ∧ (∀ k < 1, t.ctx.rtMask.getLsbD k = true) ∧ (1 < 16 → t.ctx.rtMask.getLsbD 1 = false)) ∧
      (0 < 4 * 1 ∧ t.ctx.rtBuf.toList[0]? = some 0x0D#8 ∧ ∀ j < 0, t.ctx.rtBuf.toList[j]? ≠ some 0x0D#8) :=
  ⟨by decide, by decide, rfl, by decide +kernel, by decide +kernel⟩

/-- A full 2A buffer without a terminator (V-RT-5), with all 16 segments, and a 2B group after which none leads. -/
theorem witness_RadioTextIsEmittedUpToItsTerminator_none :
    let s := tunedTo { freshContext 0 with rtMask := 0x7FFF#16 }
    let i := Instr.group2A head false 15#4 0x50 0x50 0x50 0x50
    let j := Instr.group2B head false 15#4 0xD318 0x50 0x50
    (exec i s = .next (after i s) ∧ (∀ k < 16, (after i s).ctx.rtMask.getLsbD k = true) ∧
      ∀ k < 4 * 16, (after i s).ctx.rtBuf.toList[k]? ≠ some 0x0D#8) ∧
    (exec j State.reset = .next (after j State.reset) ∧ (after j State.reset).ctx.rtMask.getLsbD 0 = false ∧
      ∀ k < 2 * 0, (after j State.reset).ctx.rtBuf.toList[k]? ≠ some 0x0D#8) :=
  ⟨⟨rfl, by decide +kernel, by decide +kernel⟩, rfl, by decide +kernel, by decide +kernel⟩

theorem witness_Group4AEmitsTheClockText :
    encode (.group4A ⟨0xD318, false, 0⟩ ⟨0, 58849#17, 12, 0, false, 0⟩) = .group ⟨0xD318, 0x4001, 0xCBC2, 0xC000⟩ := by
  decide

theorem witness_MjdDatesAreInRange :
    (15079 ≤ 15079 ∧ 15079 ≤ 131071) ∧ (15079 ≤ 131071 ∧ 131071 ≤ 131071) := by decide

theorem witness_MjdDateIsGregorianUntil2100 :
    (15079 ≤ 15079 ∧ 15079 ≤ 88127) ∧ (15079 ≤ 88127 ∧ 88127 ≤ 88127) := by decide

/-- The four classes: V-TMC-2, -3, -4 and -1. -/
theorem witness_Group8AKeepsTheTmcState :
    let hd : Head := ⟨0xD318, false, 0⟩
    let fields (t f first : Bool) : TmcFields := ⟨t, f, 5, first, true, 2, 0x1234567⟩
    encode (.group8A hd (fields true false false)) = .group ⟨0xD318, 0x8015, 0x6123, 0x4567⟩ ∧
      encode (.group8A hd (fields false true false)) = .group ⟨0xD318, 0x800D, 0x6123, 0x4567⟩ ∧
      encode (.group8A hd (fields false false true)) = .group ⟨0xD318, 0x8005, 0xE123, 0x4567⟩ ∧
      encode (.group8A hd (fields false false false)) = .group ⟨0xD318, 0x8005, 0x6123, 0x4567⟩ := by decide

/-! ### The channel -/

/-- A frame that just fits, and one that is one byte too long. -/
theorem witness_EmitQueuesOrDropsWhole :
    let c : Channel := ⟨List.replicate 1014 0x41, 0xFFFF⟩
    c.fifo.length ≤ 1024 ∧
      c.fifo.length + (3 + (Message.mk .flags (ascii "0000000")).payload.length) ≤ 1024 ∧
      1024 < c.fifo.length + (3 + (Message.mk .ps (ascii "GQRX RDS")).payload.length) := by decide +kernel

theorem witness_QueuedBytesStayAndFramesAreWhole :
    Instr.group1A head unread ≠ .hardReset ∧
      exec (.group1A head unread) State.reset = .next (after (.group1A head unread) State.reset) := ⟨by decide, rfl⟩

theorem witness_OnlyHardResetLowersTheDropCount :
    (Instr.group1A head unread ≠ .hardReset ∧
      exec (.group1A head unread) State.reset = .next (after (.group1A head unread) State.reset)) ∧
    exec .ctxReset State.reset = .next (after .ctxReset State.reset) ∧
    exec .hardReset State.reset = .next (after .hardReset State.reset) := ⟨⟨by decide, rfl⟩, rfl, rfl⟩

theorem witness_PayloadLengthsAreBounded :
    encode (.group1A head unread) = .group ⟨0xD318, 0x10A0, 0x1111, 0x2222⟩ ∧
      State.reset.params.ptyTable = defaultPtyTable := ⟨by decide, rfl⟩

/-- The reset state with these events to come. -/
def offered (l : List Event) : State := State.reset.setInputs l

theorem witness_DrainTakesTheHeadByte :
    (let s := { offered [.drain] with chan := ⟨[7#8], 0⟩ }
     s.params.legal = true ∧ s.inputs = .drain :: [] ∧ s.chan.fifo = 7#8 :: []) ∧
    ((offered [.drain]).params.legal = true ∧ (offered [.drain]).inputs = .drain :: [] ∧
      (offered [.drain]).chan.fifo = []) := by decide

/-! ### Ports and the step -/

/-- A step that runs HARD_RESET, with other values at the configuration inputs, and one that does not. -/
theorem witness_ConfigurationChangesOnlyAtHardReset :
    (let s := { offered [.op (.rstPort 1#1)] with ports := ⟨true, true, 0, false⟩ }
     (∃ t, step s = .next t) ∧ (∃ w rest, s.inputs = .op w :: rest ∧ decode w = .ok .hardReset)) ∧
    (∃ t, step (offered [.drain, .op (.rstPort 1#1)] |>.setChan ⟨[7#8], 0⟩) = .next t) ∧
    ¬ (∃ w rest, (offered [.drain, .op (.rstPort 1#1)] |>.setChan ⟨[7#8], 0⟩).inputs = .op w :: rest ∧
      decode w = .ok .hardReset) := by
  refine ⟨⟨⟨_, rfl⟩, _, _, rfl, by decide⟩, ⟨_, rfl⟩, ?_⟩
  rintro ⟨w, rest, h, -⟩
  cases h

def edge (rst ctxReset bitValid outReady : Bool) : Edge := ⟨rst, ctxReset, bitValid, true, outReady, true, true⟩

/-- An edge with everything asked at once, while a step is in progress. -/
theorem witness_HardResetWinsItsEdge :
    let s := { offered [.clock (edge true true true true)] with ports := ⟨false, false, 2, true⟩ }
    s.params.legal = true ∧ s.inputs = .clock (edge true true true true) :: [] ∧
      (edge true true true true).rst = true := by decide

/-- With and without an offered bit, with and without a byte taken. -/
theorem witness_ContextResetGoesBeforeTheBit :
    ∀ v ∈ [true, false], ∀ o ∈ [true, false],
      let e := edge false true v o
      let s := { offered [.clock e] with chan := ⟨[7#8], 0⟩ }
      s.params.legal = true ∧ s.inputs = .clock e :: [] ∧ e.rst = false ∧ s.ports.busy = 0 ∧ e.ctxReset = true ∧
        e.bitValid = v ∧ (e.outReady = o ∧ s.chan.fifo ≠ []) := by decide

/-- Every combination of what a ready core's edge can ask. -/
theorem witness_AcceptedBitStartsABoundedStep :
    ∀ r ∈ [true, false], ∀ v ∈ [true, false], ∀ o ∈ [true, false],
      let e := edge false r v o
      let s := { offered [.clock e] with chan := ⟨[7#8], 0⟩ }
      s.params.legal = true ∧ s.inputs = .clock e :: [] ∧ e.rst = false ∧ s.ports.busy = 0 ∧
        e.ctxReset = r ∧ e.bitValid = v ∧ (e.outReady = o ∧ s.chan.fifo ≠ []) := by decide

/-- The last edge of a step, and an earlier one. -/
theorem witness_BusyCoreHoldsTheContextReset :
    ∀ n ∈ [1, 2],
      let e := edge false true true true
      let s := { offered [.clock e] with ports := ⟨false, false, n, false⟩ }
      s.params.legal = true ∧ s.inputs = .clock e :: [] ∧ e.rst = false ∧ 0 < s.ports.busy ∧
        (1 < s.ports.busy ∨ s.ports.busy = 1) := by decide

theorem witness_StepRunsTheDecodedOperation :
    let w := OpWord.group ⟨0xD318, 0x10A0, 0x1111, 0x2222⟩
    (offered [.op w]).params.legal = true ∧ (offered [.op w]).inputs = .op w :: [] ∧
      decode w = .ok (.group1A head unread) := by decide

theorem witness_IdleCoreHoldsItsState :
    (State.reset.params.legal = true ∧ State.reset.inputs = []) ∧
    (offered [.op (.ctxResetPort 0#1)]).inputs = .op (.ctxResetPort 0#1) :: [] ∧
    (offered [.op (.rstPort 0#1)]).inputs = .op (.rstPort 0#1) :: [] := by decide

/-- Each bound passed by one. -/
theorem witness_IllegalParametersAreRefused :
    (params 7 64 4096).bitctrW < 8 ∧ 64 < (params 65 64 4096).bitctrW ∧ (params 32 1 4096).afListDepth < 2 ∧
      1024 < (params 32 1025 4096).afListDepth ∧ (params 32 64 1023).msgFifoBytes < 1024 ∧
      65536 < (params 32 64 65537).msgFifoBytes := by decide

theorem witness_NoStepIsRefusedOrAborted :
    State.reset.params.legal = true ∧ (State.reset.inputs.head? = some .drain → State.reset.chan.fifo ≠ []) ∧
      (let s := { offered [.drain] with chan := ⟨[7#8], 0⟩ }
       s.params.legal = true ∧ (s.inputs.head? = some .drain → s.chan.fifo ≠ [])) := by decide

/-- The step that completes a group. -/
theorem witness_StepKeepsTheInvariant :
    CoreInv (lastBitOfGroup.setInputs [.op (.bitPort 0#1)]) ∧
      ∃ t, step (lastBitOfGroup.setInputs [.op (.bitPort 0#1)]) = .next t :=
  ⟨⟨lastBitOfGroup_inv.params, lastBitOfGroup_inv.synchronizer, lastBitOfGroup_inv.assembler, lastBitOfGroup_inv.ctx,
    lastBitOfGroup_inv.chan⟩, _, rfl⟩

end Sys2Proof.Tests
end

section
/-! PROOFS. What one operation can do, and the statements of 10_state.md on the configuration inputs (R40) and
the status outputs (R41). -/

namespace Sys2Proof.Machine

/-! ## What an operation can do -/

/-- Any operation but HARD_RESET writes the synchronizer, the assembler, the context and the channel at most, and the
channel only by emitting messages. -/
theorem exec_frame {i : Instr} (hi : i ≠ .hardReset) (s : State) :
    ∃ (y : Synchronizer) (a : Assembler) (c : StationContext) (ms : List Message),
      exec i s =
        .next ((((s.setSynchronizer y).setAssembler a).setCtx c).setChan (emitAll s.params.msgFifoBytes s.chan ms)) := by
  rcases eq_or_ne i .bit0 with rfl | h0
  · obtain ⟨y, a, c, ms, h⟩ := bitStep_frame false s
    exact ⟨y, a, c, ms, congrArg Host.Outcome.next h⟩
  rcases eq_or_ne i .bit1 with rfl | h1
  · obtain ⟨y, a, c, ms, h⟩ := bitStep_frame true s
    exact ⟨y, a, c, ms, congrArg Host.Outcome.next h⟩
  rcases eq_or_ne i .ctxReset with rfl | h2
  · exact ⟨s.synchronizer, s.assembler.clear, freshContext 0x0000#16, [], rfl⟩
  obtain ⟨c, ms, h⟩ := runGroup_spec i s
  exact ⟨s.synchronizer, s.assembler, c, ms, by rw [exec_eq_runGroup i s h0 h1 h2 hi, h]; rfl⟩

/-! ## Configuration inputs (R40) -/

/-- An operation keeps the parameters; HARD_RESET samples the configuration inputs, and every other operation keeps the
configuration. -/
theorem exec_params_conf {i : Instr} {s t : State} (h : exec i s = .next t) :
    t.params = s.params ∧
    (i = .hardReset → t.conf = ⟨s.ports.cfgPtyLocale, s.ports.cfgEmitRawGroup⟩) ∧
    (i ≠ .hardReset → t.conf = s.conf) := by
  rcases eq_or_ne i .hardReset with rfl | hi
  · obtain rfl : hardResetStep s = t := Host.Outcome.next.inj h
    simp [hardResetStep]
  · obtain ⟨y, a, c, ms, hx⟩ := exec_frame hi s
    obtain rfl := Host.Outcome.next.inj (hx.symm.trans h)
    simp [hi]

/-- Settles O49: of the ways a step can go, only the operation HARD_RESET writes the configuration. -/
theorem configurationChangesOnlyAtHardReset : Obligations.ConfigurationChangesOnlyAtHardReset := by
  intro s t h
  obtain ⟨-, ⟨hin, rfl⟩ | ⟨e, rest, hin, he⟩⟩ := step_cases h
  · simp [hin]
  rcases he with ⟨w, i, rfl, hd, hx⟩ | ⟨w, err, rfl, hd, rfl⟩ | ⟨rfl, -, rfl⟩ | ⟨l, r, rfl, rfl⟩ | ⟨k, rfl, rfl⟩
  · simpa [hin, hd] using exec_params_conf hx
  · simp [hin, hd]
  · simp [hin]
  · simp [hin]
  · simp [hin, clockEdge]

/-! ## Status outputs (R41) -/

/-- Settles O50: by the four values of `sync_state`; the other outputs are their fields by definition. -/
theorem statusOutputsCopyTheirFields : Obligations.StatusOutputsCopyTheirFields := by
  intro s
  refine ⟨?_, rfl, rfl, rfl, rfl⟩
  unfold stSyncState
  cases s.synchronizer.syncState <;> rfl

end Sys2Proof.Machine
end

section
/-! PROOFS. The BIT operation: what one bit does in each state of the synchronizer, and statements of
41_synchronizer.md (R120 to R135). -/

namespace Sys2Proof.Machine

/-! ## Search (R122 to R126) -/

theorem shiftWindow_eq (b : Bool) (s : State) :
    shiftWindow b s.synchronizer = { s.synchronizer with window := windowAfter b s } := by
  rw [← shiftWindow_window]; rfl

theorem search_of_no_match {s : State} (h : findOffset s.synchronizer.window = none) : search s = s := by
  simp [search, h]

theorem search_of_first_match {s : State} {j : Offset} (h : findOffset s.synchronizer.window = some j)
    (hs : s.synchronizer.syncState ≠ .preSync) : search s = s.setSynchronizer (firstMatch j s.synchronizer) := by
  simp [search, h, hs]

theorem search_of_second_match {s : State} {j : Offset} (h : findOffset s.synchronizer.window = some j)
    (hs : s.synchronizer.syncState = .preSync) :
    search s = if pairs s.params.bitctrW j s.synchronizer then enterSync j s
      else s.setSynchronizer (dropPairing s.synchronizer) := by
  simp [search, h, hs]

theorem findOffset_shifted {b : Bool} {s : State} {j : Offset} (h : syndrome (windowAfter b s) = j.syndromeOf) :
    findOffset (shifted b s).synchronizer.window = some j := by
  rw [shifted_eq]; exact findOffset_eq_some h

/-- What SEARCH can do to the synchronizer. -/
theorem search_synchronizer_cases (s : State) :
    (search s).synchronizer = s.synchronizer ∨
    (s.synchronizer.syncState ≠ .preSync ∧ ∃ j, (search s).synchronizer = firstMatch j s.synchronizer) ∨
    (s.synchronizer.syncState = .preSync ∧
      ((∃ j, (search s).synchronizer = lock j s.synchronizer) ∨
       (search s).synchronizer = dropPairing s.synchronizer)) := by
  cases h : findOffset s.synchronizer.window with
  | none => exact .inl (by rw [search_of_no_match h])
  | some j =>
    by_cases hs : s.synchronizer.syncState = .preSync
    · refine .inr (.inr ⟨hs, ?_⟩)
      rw [search_of_second_match h hs]
      split
      · exact .inl ⟨j, rfl⟩
      · exact .inr rfl
    · exact .inr (.inl ⟨hs, j, by rw [search_of_first_match h hs]; rfl⟩)

/-! ## The distance test (R124) -/

theorem Offset.pos_le (j : Offset) : j.pos ≤ 3 := by cases j <;> decide

/-- The block distance is the one number of blocks from 1 to 4 that leads from the first position to the second. -/
theorem eq_blockDistance_iff {pl pj : Nat} (hl : pl ≤ 3) (hj : pj ≤ 3) (bd : Nat) :
    bd = blockDistance pl pj ↔ 1 ≤ bd ∧ bd ≤ 4 ∧ (pl + bd) % 4 = pj % 4 := by
  unfold blockDistance
  split <;> omega

/-- The bit distance is the difference of the counts modulo 2^W, whatever the two counts are. -/
theorem bitDistance_eq_emod (w : Nat) (y : Synchronizer) :
    (bitDistance w y : Int) = ((y.bitCounter : Int) - y.lastCounter) % (2 ^ w : Nat) := by
  have hle : y.lastCounter % 2 ^ w ≤ 2 ^ w := (Nat.mod_lt _ (by positivity)).le
  unfold bitDistance
  rw [Int.natCast_mod, Int.natCast_add, Int.natCast_sub hle, Int.natCast_mod, add_sub_left_comm, Int.add_emod_left,
    Int.sub_emod_emod]

/-- The model's distance test is the one of the claims. -/
theorem pairs_iff_distanceFits (j : Offset) (s : State) :
    pairs s.params.bitctrW j s.synchronizer = true ↔ DistanceFits j s := by
  have hbd := eq_blockDistance_iff s.synchronizer.lastOffset.pos_le j.pos_le
  unfold pairs DistanceFits
  rw [beq_iff_eq, ← bitDistance_eq_emod]
  constructor
  · intro h
    obtain ⟨h1, h4, hpos⟩ := (hbd _).mp rfl
    exact ⟨_, h1, h4, hpos, by omega⟩
  · rintro ⟨bd, h1, h4, hpos, hd⟩
    rw [← (hbd bd).mpr ⟨h1, h4, hpos⟩]
    omega

/-! ## Track (R127 to R130) -/

/-- R128's count of bad blocks as one write. -/
theorem countBad_eq (good : Bool) (y : Synchronizer) :
    countBad good y = { y with wrongBlocksCounter := y.wrongBlocksCounter + if good then 0 else 1 } := by
  cases good <;> simp [countBad]

/-- R130's quality check as one write. -/
theorem qualityCheck_eq (y : Synchronizer) :
    qualityCheck y = { y with
      syncState := if y.blocksCounter.toNat = 50 ∧ 35 < y.wrongBlocksCounter.toNat then .noSync else y.syncState
      blocksCounter := if y.blocksCounter.toNat = 50 then 0 else y.blocksCounter
      wrongBlocksCounter := if y.blocksCounter.toNat = 50 then 0 else y.wrongBlocksCounter } := by
  unfold qualityCheck
  split <;> simp [*]

/-! ## The whole bit -/

/-- A bit in a state that searches: the shift, SEARCH, and the count (R120). -/
theorem bitStep_of_search {s : State} (hs : s.synchronizer.syncState ≠ .sync) (b : Bool) :
    bitStep b s =
      (search (shifted b s)).setSynchronizer (tick s.params.bitctrW (search (shifted b s)).synchronizer) := by
  have hsearch : syncStep (shifted b s) = search (shifted b s) := by
    unfold syncStep
    split
    next h => exact absurd h hs
    all_goals rfl
  obtain ⟨y, a, hf, -⟩ := search_frame (shifted b s)
  unfold bitStep
  rw [hsearch, hf]; rfl

/-- A bit inside a block: the shift and the two counts of bits (R127). -/
theorem bitStep_countBit {s : State} (hs : s.synchronizer.syncState = .sync)
    (h : s.synchronizer.blockBitCounter.toNat < 25) (b : Bool) :
    bitStep b s = s.setSynchronizer (tick s.params.bitctrW (countBit (shiftWindow b s.synchronizer))) := by
  have htrack : syncStep (shifted b s) = (shifted b s).setSynchronizer (countBit (shiftWindow b s.synchronizer)) := by
    unfold syncStep track
    simp [shifted, shiftWindow, hs, h]
  unfold bitStep
  rw [htrack]; rfl

/-- Every way a bit can go, in the synchronizer: between the shift and the count of R131 it changes nothing, records a
first match, locks or drops a pairing, counts a bit of a block, or ends a block. -/
theorem bitStep_synchronizer_cases (b : Bool) (s : State) :
    ∃ y, (bitStep b s).synchronizer = tick s.params.bitctrW y ∧
      ((s.synchronizer.syncState ≠ .sync ∧ y = shiftWindow b s.synchronizer) ∨
       (s.synchronizer.syncState ≠ .sync ∧ s.synchronizer.syncState ≠ .preSync ∧
        ∃ j, y = firstMatch j (shiftWindow b s.synchronizer)) ∨
       (s.synchronizer.syncState = .preSync ∧
        ((∃ j, y = lock j (shiftWindow b s.synchronizer)) ∨ y = dropPairing (shiftWindow b s.synchronizer))) ∨
       (s.synchronizer.syncState = .sync ∧ s.synchronizer.blockBitCounter.toNat < 25 ∧
        y = countBit (shiftWindow b s.synchronizer)) ∨
       (s.synchronizer.syncState = .sync ∧ 25 ≤ s.synchronizer.blockBitCounter.toNat ∧
        ∃ good, y = qualityCheck (advanceBlock (countBad good (shiftWindow b s.synchronizer))))) := by
  by_cases hs : s.synchronizer.syncState = .sync
  · by_cases h : s.synchronizer.blockBitCounter.toNat < 25
    · exact ⟨_, by rw [bitStep_countBit hs h]; rfl, .inr (.inr (.inr (.inl ⟨hs, h, rfl⟩)))⟩
    · rw [bitStep_blockEnd hs h, ← shiftWindow_eq]
      exact ⟨_, rfl, .inr (.inr (.inr (.inr ⟨hs, not_lt.mp h, _, rfl⟩)))⟩
  · refine ⟨(search (shifted b s)).synchronizer, by rw [bitStep_of_search hs]; rfl, ?_⟩
    rcases search_synchronizer_cases (shifted b s) with h | ⟨hp, h⟩ | ⟨hp, h⟩
    · exact .inl ⟨hs, h⟩
    · exact .inr (.inl ⟨hs, hp, h⟩)
    · exact .inr (.inr (.inl ⟨hp, h⟩))

/-! ## Shift and count in every state (R121, R131) -/

theorem windowAfter_extractLsb' (b : Bool) (s : State) :
    (windowAfter b s).extractLsb' 1 25 = s.synchronizer.window.extractLsb' 0 25 := by
  have hb : b.toNat < 2 := b.toNat_lt
  apply BitVec.eq_of_toNat_eq
  simp only [windowAfter, BitVec.extractLsb'_toNat, BitVec.toNat_ofNat, Nat.shiftRight_eq_div_pow]
  omega

theorem windowAfter_getLsbD_zero (b : Bool) (s : State) : (windowAfter b s).getLsbD 0 = b := by
  cases b <;> simp [windowAfter, BitVec.getLsbD_ofNat, -BitVec.getLsbD_eq_getElem]

/-- No way a bit can go between its shift and its count writes the window or the bit count, and only a first match,
which records the count from before the bit, enters PreSync. -/
theorem bitStep_shifts_and_counts (b : Bool) (s : State) :
    (bitStep b s).synchronizer.window = windowAfter b s ∧ (bitStep b s).synchronizer.bitCounter = countAfter s ∧
    (s.synchronizer.syncState ≠ .preSync → (bitStep b s).synchronizer.syncState = .preSync →
      (bitStep b s).synchronizer.lastCounter = s.synchronizer.bitCounter) := by
  obtain ⟨y, hy, hcases⟩ := bitStep_synchronizer_cases b s
  rw [hy, ← shiftWindow_window]
  rcases hcases with ⟨-, rfl⟩ | ⟨-, -, j, rfl⟩ | ⟨hp, ⟨j, rfl⟩ | rfl⟩ | ⟨-, -, rfl⟩ | ⟨hs, -, good, rfl⟩
  · exact ⟨rfl, rfl, fun hp hp' => absurd hp' hp⟩
  · exact ⟨rfl, rfl, fun _ _ => rfl⟩
  · exact ⟨rfl, rfl, fun hp' => absurd hp hp'⟩
  · exact ⟨rfl, rfl, fun hp' => absurd hp hp'⟩
  · exact ⟨rfl, rfl, fun hp hp' => absurd hp' hp⟩
  · rw [qualityCheck_eq, countBad_eq]
    refine ⟨rfl, rfl, fun _ hp' => ?_⟩
    simp only [tick, advanceBlock, shiftWindow, hs] at hp'
    split_ifs at hp'

/-- Settles O10: the new window's two parts are the old one moved up and the bit. -/
theorem bitShiftsAndCounts : Obligations.BitShiftsAndCounts := by
  intro b s
  obtain ⟨hwindow, hcount, hrecord⟩ := bitStep_shifts_and_counts b s
  refine ⟨bitStep b s, exec_bitInstr b s, ?_, ?_, hcount, hrecord⟩
  · rw [hwindow, windowAfter_extractLsb']
  · rw [hwindow, windowAfter_getLsbD_zero]

/-! ## Matches (R123 to R126) -/

/-- Settles O13: SEARCH records the match before the count advances. -/
theorem firstMatchEntersPreSync : Obligations.FirstMatchEntersPreSync := by
  intro b s j hs hw
  have hsync : s.synchronizer.syncState ≠ .sync := by rcases hs with h | h <;> simp [h]
  have hpre : s.synchronizer.syncState ≠ .preSync := by rcases hs with h | h <;> simp [h]
  have hsearch := search_of_first_match (findOffset_shifted hw) hpre
  rw [exec_bitInstr, bitStep_of_search hsync, hsearch, shifted_eq]; rfl

/-- Settles O14: the distance test does not see the shifted window, so it decides on the offsets and counts from before
the bit. -/
theorem secondMatchLocksOrDrops : Obligations.SecondMatchLocksOrDrops := by
  intro b s j hs hw
  have hsearch := search_of_second_match (findOffset_shifted hw) hs
  have hpairs : pairs (shifted b s).params.bitctrW j (shifted b s).synchronizer = true ↔ DistanceFits j s :=
    pairs_iff_distanceFits j s
  rw [exec_bitInstr, bitStep_of_search (by simp [hs]), hsearch]
  constructor
  · intro hfit
    have hnumber : BitVec.ofNat 2 ((j.index + 1) % 4) = BitVec.ofNat 2 (j.index + 1) := by cases j <;> rfl
    rw [if_pos (hpairs.mpr hfit), shifted_eq, hnumber]; rfl
  · intro hfit
    rw [if_neg (mt hpairs.mp hfit), shifted_eq]; rfl

/-! ## The end of a block (R128, R133, R129, R130) -/

/-- Settles O16: in their legal ranges the counts of six bits do not wrap, so they are the numbers of R129 and R130. -/
theorem blockEndChecksCountsAndAdvances : Obligations.BlockEndChecksCountsAndAdvances := by
  intro b s hs hbits hblocks hwrong p good wrong handed
  obtain ⟨a, c, ms, hframe⟩ : ∃ a c ms, handed = ((s.setAssembler a).setCtx c).setChan _ :=
    assemble_frame p (dataWord (windowAfter b s)) good s
  have hblocks' : (s.synchronizer.blocksCounter + 1).toNat = s.synchronizer.blocksCounter.toNat + 1 :=
    BitVec.toNat_add_of_lt (by simp; omega)
  have hwrong' : (s.synchronizer.wrongBlocksCounter + if good then 0 else 1).toNat = wrong := by
    rw [BitVec.toNat_add_of_lt (by split <;> simp <;> omega)]
    unfold wrong; split <;> rfl
  have hstep : bitStep b s = handed.setSynchronizer (tick s.params.bitctrW (qualityCheck (advanceBlock (countBad good
      { s.synchronizer with window := windowAfter b s })))) := bitStep_blockEnd hs (by omega)
  refine ⟨_, exec_bitInstr b s, ?_⟩
  rw [hstep, countBad_eq, qualityCheck_eq]
  refine ⟨rfl, rfl, rfl, rfl, rfl, BitVec.toNat_add p 1, fun h50 => ?_, fun h50 => ?_, rfl, rfl, rfl, ?_⟩
  · simp only [State.setSynchronizer_synchronizer, tick, advanceBlock, hblocks', hwrong', h50, hs, false_and, if_false,
      and_self]
  · simp only [State.setSynchronizer_synchronizer, tick, advanceBlock, hblocks', hwrong', h50, hs, true_and, if_true,
      gt_iff_lt, and_self]
  · simp [hframe]

end Sys2Proof.Machine
end

section
/-! PROOFS. What a group operation does, as one rule for all 32 codes, and the statements of 43_group_dispatch.md
(R160 to R184). -/

namespace Sys2Proof.Machine

/-! ## Spelling a word in hexadecimal (R10, R281) -/

/-- The uppercase hexadecimal digits in order of value. -/
def hexDigits : List Byte :=
  [0x30, 0x31, 0x32, 0x33, 0x34, 0x35, 0x36, 0x37, 0x38, 0x39, 0x41, 0x42, 0x43, 0x44, 0x45, 0x46]

theorem hexDigits_getElem?_toNat : ∀ d : BitVec 4, hexDigits[d.toNat]? = some (hexDigit d) := by decide

theorem toNat_nibble (v : Word) (k : Nat) : (v.extractLsb' (4 * k) 4).toNat = v.toNat / 16 ^ k % 16 := by
  rw [BitVec.extractLsb'_toNat, Nat.shiftRight_eq_div_pow, pow_mul]; rfl

theorem hex4U_getElem? (v : Word) {k : Nat} (hk : k < 4) :
    (hex4U v)[k]? = some (hexDigit (v.extractLsb' (4 * (3 - k)) 4)) := by
  interval_cases k <;> rfl

theorem hex4U_getElem?_eq_digit (v : Word) {k : Nat} (hk : k < 4) :
    (hex4U v)[k]? = hexDigits[v.toNat / 16 ^ (3 - k) % 16]? := by
  rw [hex4U_getElem? v hk, ← toNat_nibble, hexDigits_getElem?_toNat]

/-! ## The handler a group selects (R166) -/

/-- The handler of a group operation (R166), with the depth of the AF list. The input bits and the resets have none and
are read as no-ops. -/
def handlerOf (depth : Nat) : Instr → StationContext → Handled
  | .group0A hd tune afHi afLo c0 c1 => handle0A depth hd.tp tune afHi afLo c0 c1
  | .group0B hd tune _ c0 c1 => handle0B hd.tp tune c0 c1
  | .group2A _ ab seg c0 c1 c2 c3 => handle2A ab seg c0 c1 c2 c3
  | .group2B _ ab seg _ c0 c1 => handle2B ab seg c0 c1
  | .group4A _ clock => handle4A clock
  | .group8A _ tmc => handle8A tmc
  | _ => handleNoOp

/-- No flag write touches PI or PTY (R190 to R192). -/
theorem tuningUpdate_pi_pty (tp : Bool) (t : Tuning) (c0 c1 : Byte) (c : StationContext) :
    (tuningUpdate tp t c0 c1 c).pi = c.pi ∧ (tuningUpdate tp t c0 c1 c).pty = c.pty := by
  unfold tuningUpdate psUpdate writeDecoderControl
  split <;> exact ⟨rfl, rfl⟩

theorem handle8A_pi_pty (m : TmcFields) (c : StationContext) :
    (handle8A m c).1.pi = c.pi ∧ (handle8A m c).1.pty = c.pty := by
  unfold handle8A
  split
  · exact ⟨rfl, rfl⟩
  · dsimp only
    split <;> exact ⟨rfl, rfl⟩

/-- PI and PTY are the dispatch's to write (R161, R164): every handler keeps them. -/
theorem handlerOf_pi_pty (depth : Nat) (i : Instr) (c : StationContext) :
    (handlerOf depth i c).1.pi = c.pi ∧ (handlerOf depth i c).1.pty = c.pty := by
  cases i
  case group0A hd tune _ _ c0 c1 => exact tuningUpdate_pi_pty hd.tp tune c0 c1 c
  case group0B hd tune _ c0 c1 => exact tuningUpdate_pi_pty hd.tp tune c0 c1 c
  case group8A _ tmc => exact handle8A_pi_pty tmc c
  all_goals exact ⟨rfl, rfl⟩

/-! ## The header of a group's words (R84) -/

/-- Whatever a group's code and its other bits are, its header reads back from the words. -/
theorem headOf_headerWord (code : BitVec 5) (hd : Head) (low5 : BitVec 5) (b2 b3 : Word) :
    headOf ⟨hd.pi, headerWord code hd low5, b2, b3⟩ = hd := by
  have htp : (headerWord code hd low5).getLsbD 10 = hd.tp := by
    simp only [headerWord, BitVec.getLsbD_cast, BitVec.getLsbD_append]
    simp
  have hpty : (headerWord code hd low5).extractLsb' 5 5 = hd.pty := by
    apply BitVec.eq_of_getLsbD_eq
    intro k hk
    simp only [headerWord, BitVec.getLsbD_extractLsb', BitVec.getLsbD_cast, BitVec.getLsbD_append]
    simp [hk]
  simp only [headOf, htp, hpty]

/-! ## One rule for every group operation (R160, R167) -/

theorem enterContext_headOf (g : GroupWords) (s : State) : enterContext (headOf g) s.ctx = enteredContext g s := by
  simp [enterContext, enteredContext, trackPi, headOf]

theorem commonMessages_headOf (g : GroupWords) (s : State) :
    commonMessages s.params s.conf g (headOf g) = announced g s := rfl

/-- A group operation is DECODE_GROUP with the handler of its code: every arm says so by definition, once the header is
the one its operation carries. -/
theorem exec_eq_decodeWith {i : Instr} {g : GroupWords} (h : encode i = .group g) (s : State) :
    exec i s = .next (decodeWith g (headOf g) (handlerOf s.params.afListDepth i) s) := by
  cases i
  case bit0 | bit1 | ctxReset | hardReset => simp [encode] at h
  all_goals
    obtain rfl := OpWord.group.inj h
    exact congrArg (fun hd => Host.Outcome.next (decodeWith _ hd _ s)) (headOf_headerWord _ _ _ _ _).symm

/-- What a group operation does: it hands the tracked or fresh context with the group's PTY to the handler, keeps the
context the handler answers, and queues the announcement and then the handler's messages. -/
theorem exec_group {i : Instr} {g : GroupWords} (h : encode i = .group g) (s : State) :
    exec i s = .next { s with
      ctx := (handlerOf s.params.afListDepth i (enteredContext g s)).1
      chan := chanAfter (announced g s ++ (handlerOf s.params.afListDepth i (enteredContext g s)).2) s } := by
  rw [exec_eq_decodeWith h, decodeWith_eq, enterContext_headOf, commonMessages_headOf]; rfl

theorem enteredContext_pi (g : GroupWords) (s : State) : (enteredContext g s).pi = g.b0 := by
  rw [← enterContext_headOf, enterContext_pi]; rfl

theorem enteredContext_pty (g : GroupWords) (s : State) : (enteredContext g s).pty = g.b1.extractLsb' 5 5 := rfl

/-- A group of another PI enters with a context that owes nothing to the tracked one (R161). -/
theorem enteredContext_of_ne {g : GroupWords} {s : State} (h : g.b0 ≠ s.ctx.pi) :
    enteredContext g s = { freshContext g.b0 with pty := g.b1.extractLsb' 5 5 } := by
  rw [← enterContext_headOf, enterContext, trackPi_of_ne (pi := (headOf g).pi) h]; rfl

theorem enteredContext_of_eq {g : GroupWords} {s : State} (h : g.b0 = s.ctx.pi) :
    enteredContext g s = { s.ctx with pty := g.b1.extractLsb' 5 5 } := by
  rw [← enterContext_headOf, enterContext, trackPi_of_eq (pi := (headOf g).pi) h]; rfl

/-- A group whose handler is a no-op only announces itself (R168). -/
theorem exec_group_of_noOp {i : Instr} {g : GroupWords} {s : State}
    (hi : handlerOf s.params.afListDepth i = handleNoOp) (h : encode i = .group g) :
    exec i s = .next { s with ctx := enteredContext g s, chan := chanAfter (announced g s) s } := by
  simp only [exec_group h, hi, handleNoOp, List.append_nil]

/-! ## The statements -/

/-- Settles O23: the handler's messages come after the announcement, and no handler writes PI or PTY. -/
theorem everyGroupAnnouncesItself : Obligations.EveryGroupAnnouncesItself := by
  refine ⟨fun v => ⟨rfl, fun k hk => hex4U_getElem?_eq_digit v hk⟩, by decide, fun i g s h => ?_⟩
  obtain ⟨hpi, hpty⟩ := handlerOf_pi_pty s.params.afListDepth i (enteredContext g s)
  exact ⟨_, _, exec_group h s, rfl, hpi.trans (enteredContext_pi g s), hpty.trans (enteredContext_pty g s), rfl⟩

/-- Settles O24: of the tracked context a group reads what it enters with, which for another PI is fresh. -/
theorem newPiForgetsTheOldStation : Obligations.NewPiForgetsTheOldStation := by
  intro i g s c h hpi
  have hctx : enteredContext g { s with ctx := c } = enteredContext g { s with ctx := freshContext g.b0 } := by
    rw [enteredContext_of_ne hpi.symm, enteredContext_of_eq rfl]
  rw [exec_group h, exec_group h, hctx]; rfl

/-- Settles O26: each of the six has the no-op handler. -/
theorem describedNoOpGroupsOnlyAnnounce : Obligations.DescribedNoOpGroupsOnlyAnnounce := by
  intro hd u s g i hi
  have hnoOp : handlerOf s.params.afListDepth i = handleNoOp := by
    revert i; simp [handlerOf]
  exact exec_group_of_noOp hnoOp

/-- Settles O27: each of the twenty has the no-op handler. -/
theorem otherNoOpGroupsOnlyAnnounce : Obligations.OtherNoOpGroupsOnlyAnnounce := by
  intro hd u s g i hi
  have hnoOp : handlerOf s.params.afListDepth i = handleNoOp := by
    revert i; simp [handlerOf]
  exact exec_group_of_noOp hnoOp

/-- Settles O28: the fresh context of PI 0x0000 written out; the clearing of the assembly keeps its words. -/
theorem contextResetClearsContextAndAssembly : Obligations.ContextResetClearsContextAndAssembly := fun _ => rfl

end Sys2Proof.Machine
end

section
/-! PROOFS. Group type 0: the flags, the programme-service segment, the AF list, and AF_DECODE as a walk
(R190 to R201). -/

namespace Sys2Proof.Machine

/-! ## What both versions write (R205, R206) -/

/-- Either version of group type 0 leaves the context of R190 to R192, with an AF list of its own choice. -/
theorem exec_type0 {hd : Head} {u : Tuning} {afHi afLo c0 c1 : Byte} {pr : Word} {g : GroupWords} {i : Instr}
    (hi : i ∈ [Instr.group0A hd u afHi afLo c0 c1, .group0B hd u pr c0 c1]) (h : encode i = .group g) (s : State) :
    ∃ l ch, exec i s =
      .next { s with ctx := { tuningUpdate hd.tp u c0 c1 (enteredContext g s) with afList := l }, chan := ch } := by
  simp only [List.mem_cons, List.not_mem_nil, or_false] at hi
  obtain rfl | rfl := hi
  · exact ⟨_, _, exec_group h s⟩
  · exact ⟨(tuningUpdate hd.tp u c0 c1 (enteredContext g s)).afList, _, exec_group h s⟩

/-! ## The flags (R190, R191) -/

theorem writeDecoderControl_eq (seg : BitVec 2) (di : Bool) (c : StationContext) :
    writeDecoderControl seg di c = { c with
      dynamicPty := if seg = 0#2 then di else c.dynamicPty
      compressed := if seg = 1#2 then di else c.compressed
      artificialHead := if seg = 2#2 then di else c.artificialHead
      monoStereo := if seg = 3#2 then di else c.monoStereo } := by
  have hseg : seg = 0#2 ∨ seg = 1#2 ∨ seg = 2#2 ∨ seg = 3#2 := by revert seg; decide
  rcases hseg with rfl | rfl | rfl | rfl <;> rfl

/-- R190 to R192 on a context, field by field. -/
theorem tuningUpdate_eq (tp : Bool) (u : Tuning) (c0 c1 : Byte) (c : StationContext) :
    tuningUpdate tp u c0 c1 c = { c with
      tp := tp, ta := u.ta, ms := u.ms
      dynamicPty := if u.seg = 0#2 then u.di else c.dynamicPty
      compressed := if u.seg = 1#2 then u.di else c.compressed
      artificialHead := if u.seg = 2#2 then u.di else c.artificialHead
      monoStereo := if u.seg = 3#2 then u.di else c.monoStereo
      psMask := if psChanged u.seg c0 c1 c then 0 else setBit c.psMask u.seg.toNat
      psBuf := writePs c.psBuf u.seg c0 c1
      psSeen := setBit c.psSeen u.seg.toNat } := by
  unfold tuningUpdate
  rw [writeDecoderControl_eq]; rfl

/-- Settles O29: the flags of the updated context, which neither the PS segment nor the AF list touches. -/
theorem type0WritesItsFlags : Obligations.Type0WritesItsFlags := by
  intro hd u afHi afLo c0 c1 pr s g i hi h
  obtain ⟨l, ch, hx⟩ := exec_type0 hi h s
  rw [tuningUpdate_eq] at hx
  exact ⟨_, hx, rfl, rfl, rfl, rfl, rfl, rfl, rfl⟩

/-! ## The programme-service segment (R192) -/

theorem setBit_getLsbD {n i : Nat} (m : BitVec n) (hi : i < n) (k : Nat) :
    (setBit m i).getLsbD k = (m.getLsbD k || decide (k = i)) := by
  rw [setBit, BitVec.getLsbD_or, BitVec.getLsbD_twoPow]
  simp [hi, eq_comm]

theorem writePs_getElem (buf : Vector Byte 8) (seg : BitVec 2) (c0 c1 : Byte) (k : Fin 8) :
    (writePs buf seg c0 c1)[k] =
      if k.val = 2 * seg.toNat then c0 else if k.val = 2 * seg.toNat + 1 then c1 else buf[k] := by
  simp only [writePs, Fin.getElem_fin, Vector.getElem_setIfInBounds, eq_comm (b := k.val)]
  by_cases h0 : k.val = 2 * seg.toNat
  · simp [h0]
  · simp only [h0, if_false]

/-- A segment's stored characters differ from these two exactly when writing these changes one of its bytes. -/
theorem psChars_ne_iff (buf : Vector Byte 8) (seg : BitVec 2) (c0 c1 : Byte) :
    psChars buf seg ≠ (c0, c1) ↔
      ∃ k : Fin 8, k.val / 2 = seg.toNat ∧ buf[k] ≠ (writePs buf seg c0 c1)[k] := by
  have hseg : seg.toNat < 4 := seg.isLt
  simp only [writePs_getElem, psChars, ne_eq, Prod.mk.injEq, not_and_or]
  constructor
  · rintro (h0 | h1)
    · exact ⟨⟨2 * seg.toNat, by omega⟩, by simp, by simpa using h0⟩
    · exact ⟨⟨2 * seg.toNat + 1, by omega⟩, by simp; omega, by simpa using h1⟩
  · rintro ⟨⟨k, hk8⟩, hk, hne⟩
    obtain rfl | rfl : k = 2 * seg.toNat ∨ k = 2 * seg.toNat + 1 := by simp only at hk; omega
    · exact .inl (by simpa using hne)
    · exact .inr (by simpa using hne)

theorem psChanged_iff (seg : BitVec 2) (c0 c1 : Byte) (c : StationContext) :
    psChanged seg c0 c1 c = true ↔ c.psSeen.getLsbD seg.toNat = true ∧
      ∃ k : Fin 8, k.val / 2 = seg.toNat ∧ c.psBuf[k] ≠ (writePs c.psBuf seg c0 c1)[k] := by
  rw [← psChars_ne_iff, psChanged, Bool.and_eq_true, bne_iff_ne]

/-- Settles O30: what the segment's bytes become decides whether the mask is cleared. -/
theorem type0UpdatesItsPsSegment : Obligations.Type0UpdatesItsPsSegment := by
  intro hd u afHi afLo c0 c1 pr s g i hi h e
  obtain ⟨l, ch, hx⟩ := exec_type0 hi h s
  rw [tuningUpdate_eq] at hx
  refine ⟨_, hx, writePs_getElem _ _ _ _, setBit_getLsbD _ u.seg.isLt, fun hc => ?_, fun hc => ?_⟩
  · exact if_pos ((psChanged_iff ..).mpr hc)
  · intro k
    rw [← setBit_getLsbD e.psMask u.seg.isLt k]
    exact congrArg (BitVec.getLsbD · k) (if_neg (mt (psChanged_iff ..).mp hc))

/-! ## The AF list (R194) -/

theorem afAppend_of_getLast? {depth : Nat} {p : Byte × Byte} {l : List (Byte × Byte)} (h : l.getLast? = some p) :
    afAppend depth p l = l := by
  simp [afAppend, afAppends, h]

theorem afAppend_of_getLast?_ne {depth : Nat} {p : Byte × Byte} {l : List (Byte × Byte)} (h : l.getLast? ≠ some p) :
    afAppend depth p l = (if l.length = depth then l.drop 1 else l) ++ [p] := by
  simp [afAppend, afAppends, h]

/-- No write of R190 to R192 touches the AF list. -/
theorem tuningUpdate_afList (tp : Bool) (u : Tuning) (c0 c1 : Byte) (c : StationContext) :
    (tuningUpdate tp u c0 c1 c).afList = c.afList := by
  rw [tuningUpdate_eq]

/-- Settles O33: a 0A group leaves the list of R194, on the list it entered with. -/
theorem group0AAppendsItsPair : Obligations.Group0AAppendsItsPair := by
  intro hd u afHi afLo c0 c1 s g h l
  have hlist : (handle0A s.params.afListDepth hd.tp u afHi afLo c0 c1 (enteredContext g s)).1.afList =
      afAppend s.params.afListDepth (afHi, afLo) l :=
    congrArg (afAppend _ _) (tuningUpdate_afList ..)
  refine ⟨_, exec_group h s, fun hlast => ?_, fun hlast hfull => ?_, fun hlast hroom => ?_⟩
  · exact hlist.trans (afAppend_of_getLast? hlast)
  · exact hlist.trans (by rw [afAppend_of_getLast?_ne hlast, if_pos hfull])
  · exact hlist.trans (by rw [afAppend_of_getLast?_ne hlast, if_neg hroom])

/-! ## The first row (R196) -/

theorem isFirstRow_iff (p : Byte × Byte) : isFirstRow p = true ↔ 224 ≤ p.1.toNat ∧ p.1.toNat ≤ 249 := by
  simp [isFirstRow]

theorem afDecode_of_no_firstRow {l : List (Byte × Byte)} (h : ∀ p ∈ l, ¬ isFirstRow p = true) : afDecode l = none := by
  have hdrop : (l.dropWhile fun p => !isFirstRow p) = [] := by simpa [List.dropWhile_eq_nil_iff] using h
  rw [afDecode, hdrop]

/-- AF_DECODE from the earliest first row: the walk over the rows behind it, from that row's own frequency. -/
theorem afDecode_of_firstRow {pre rows : List (Byte × Byte)} {hi special : Byte}
    (hpre : ∀ p ∈ pre, ¬ isFirstRow p = true) (hrow : isFirstRow (hi, special) = true) :
    afDecode (pre ++ (hi, special) :: rows) =
      if hi.toNat - 224 ≠ 0 ∧
          (afWalk (hi.toNat - 224) special rows [vhfEntry special false]).length = hi.toNat - 224
      then some (afWalk (hi.toNat - 224) special rows [vhfEntry special false]) else none := by
  have hdrop : ((pre ++ (hi, special) :: rows).dropWhile fun p => !isFirstRow p) = (hi, special) :: rows := by
    rw [List.dropWhile_append_of_pos (by simpa using hpre), List.dropWhile_cons_of_neg (by simp [hrow])]
  rw [afDecode, hdrop]
  by_cases hn : hi.toNat - 224 = 0 <;> simp [hn]

/-! ## The walk (R197 to R201) -/

/-- R198 without a signed intermediate. -/
theorem vhfEntry_eq (c : Byte) (regional : Bool) : vhfEntry c regional = ⟨false, 87500 + 100 * c.toNat, regional⟩ := by
  rw [vhfEntry, vhfKhz, show (87600 + ((c.toNat : Int) - 1) * 100).toNat = 87500 + 100 * c.toNat by omega]

/-- R199 with its two linear formulas multiplied out. -/
theorem lfmfEntries_eq (c : Byte) :
    lfmfEntries c = if c.toNat = 0 ∨ 134 < c.toNat then []
      else if c.toNat ≤ 15 then [⟨true, 144 + 9 * c.toNat, false⟩] else [⟨true, 387 + 9 * c.toNat, false⟩] := by
  unfold lfmfEntries
  by_cases hlf : 1 ≤ c.toNat ∧ c.toNat ≤ 15
  · rw [if_pos hlf, if_neg (by omega), if_pos hlf.2, show 153 + (c.toNat - 1) * 9 = 144 + 9 * c.toNat by omega]
  by_cases hmf : 16 ≤ c.toNat ∧ c.toNat ≤ 134
  · rw [if_neg hlf, if_pos hmf, if_neg (by omega), if_neg (by omega),
      show 531 + (c.toNat - 16) * 9 = 387 + 9 * c.toNat by omega]
  · rw [if_neg hlf, if_neg hmf, if_pos (by omega)]

/-- An LF/MF row gives one frequency at most, so it never exceeds the room. -/
theorem lfmfEntries_length_le_one (c : Byte) : (lfmfEntries c).length ≤ 1 := by
  unfold lfmfEntries
  split_ifs <;> simp

/-- Everything a row has to give, whatever room there is (R199 to R201). -/
def rowGives (special : Byte) (row : Byte × Byte) : List AfEntry :=
  if row.1 = 250#8 then lfmfEntries row.2
  else if row.1 = special then [vhfEntry row.2 (decide (row.1.toNat > row.2.toNat))]
  else if row.2 = special then [vhfEntry row.1 (decide (row.1.toNat > row.2.toNat))]
  else [vhfEntry row.1 false, vhfEntry row.2 false]

/-- A row adds the first frequencies of what it gives, as many as there is room for. -/
theorem rowEntries_eq_take {special : Byte} {room : Nat} {row : Byte × Byte} (hroom : 0 < room) :
    rowEntries special room row = (rowGives special row).take room := by
  simp only [rowEntries, rowGives, beq_iff_eq, gt_iff_lt, apply_ite (List.take room)]
  rw [List.take_of_length_le ((lfmfEntries_length_le_one row.2).trans hroom),
    List.take_of_length_le (l := [_]) hroom, List.take_of_length_le (l := [_]) hroom]
  have hpair : (vhfEntry row.1 false :: if 1 < room then [vhfEntry row.2 false] else []) =
      [vhfEntry row.1 false, vhfEntry row.2 false].take room := by
    obtain ⟨k, rfl⟩ := Nat.exists_eq_add_of_lt hroom
    cases k <;> simp
  rw [hpair]

/-- One turn of the walk: nothing is added once n are found. -/
def addRow (n : Nat) (special : Byte) (found : List AfEntry) (row : Byte × Byte) : List AfEntry :=
  found ++ (rowGives special row).take (n - found.length)

theorem addRow_of_full {n : Nat} {special : Byte} {found : List AfEntry} (h : n ≤ found.length) (row : Byte × Byte) :
    addRow n special found row = found := by
  simp [addRow, Nat.sub_eq_zero_of_le h]

theorem foldl_addRow_of_full {n : Nat} {special : Byte} {found : List AfEntry} (h : n ≤ found.length)
    (rows : List (Byte × Byte)) : rows.foldl (addRow n special) found = found := by
  induction rows with
  | nil => rfl
  | cons row rows ih => rw [List.foldl_cons, addRow_of_full h, ih]

/-- The walk, which stops when n are found, is the fold over every row. -/
theorem afWalk_eq_foldl (n : Nat) (special : Byte) (rows : List (Byte × Byte)) (found : List AfEntry) :
    afWalk n special rows found = rows.foldl (addRow n special) found := by
  induction rows generalizing found with
  | nil => rfl
  | cons row rows ih =>
    unfold afWalk
    split
    · next hroom => rw [rowEntries_eq_take (Nat.sub_pos_of_lt hroom), ih]; rfl
    · next hfull => rw [foldl_addRow_of_full (not_lt.mp hfull)]

/-- Settles O34: the walk is a fold, and its entries are the statement's with their arithmetic multiplied out. -/
theorem afDecodeFollowsTheWalk : Obligations.AfDecodeFollowsTheWalk := by
  intro l
  refine ⟨fun h => afDecode_of_no_firstRow fun p hp => mt (isFirstRow_iff p).mp (h p hp), ?_⟩
  rintro pre hi special rows rfl hpre hlo hhi n vhf gives freqs
  have hgives : rowGives special = gives := by
    funext p
    simp only [rowGives, vhfEntry_eq, lfmfEntries_eq, gives, vhf]
  have hfreqs : afWalk n special rows [vhfEntry special false] = freqs := by
    rw [afWalk_eq_foldl, vhfEntry_eq]
    unfold addRow
    rw [hgives]
  rw [afDecode_of_firstRow (fun p hp => mt (isFirstRow_iff p).mp (hpre p hp)) ((isFirstRow_iff _).mpr ⟨hlo, hhi⟩), hfreqs]

end Sys2Proof.Machine
end

section
/-! PROOFS. Group type 2, RadioText: what its two versions write into the context (R220 to R223), and the text that is
emitted of the leading segments (R224 to R228). -/

namespace Sys2Proof.Machine

/-! ## What both versions write (R220 to R223) -/

/-- The context either version of group type 2 leaves, once it has written its characters: the flag taken, the segment
marked. -/
def textStored (ab : Bool) (seg : BitVec 4) (buf : Vector Byte 64) (c : StationContext) : StationContext :=
  textMark seg { textToggle ab c with rtBuf := buf }

/-- A toggle forgets the marks, and the group's own segment is marked after that (R220, R223). -/
theorem textStored_rtMask_getLsbD (ab : Bool) (seg : BitVec 4) (buf : Vector Byte 64) (c : StationContext) (k : Nat) :
    (textStored ab seg buf c).rtMask.getLsbD k =
      (decide (k = seg.toNat) || (c.rtMask.getLsbD k && (ab == c.rtAb))) := by
  have hkept : (textToggle ab c).rtMask.getLsbD k = (c.rtMask.getLsbD k && (ab == c.rtAb)) := by
    by_cases h : ab = c.rtAb <;> simp [textToggle, h]
  rw [Bool.or_comm, ← hkept]
  exact setBit_getLsbD _ seg.isLt k

/-! ## The characters (R221, R222) -/

theorem setPair_getElem {n : Nat} (buf : Vector Byte n) (i : Nat) (c0 c1 : Byte) (k : Fin n) :
    ((buf.setIfInBounds i c0).setIfInBounds (i + 1) c1)[k] =
      if k.val = i then c0 else if k.val = i + 1 then c1 else buf[k] := by
  simp only [Fin.getElem_fin, Vector.getElem_setIfInBounds, eq_comm (b := k.val)]
  by_cases h0 : k.val = i
  · simp [h0]
  · simp only [h0, if_false]

theorem writeText2_getElem (buf : Vector Byte 64) (seg : BitVec 4) (c0 c1 : Byte) (k : Fin 64) :
    (writeText2 buf seg c0 c1)[k] =
      if k.val = 2 * seg.toNat then c0 else if k.val = 2 * seg.toNat + 1 then c1 else buf[k] :=
  setPair_getElem buf _ c0 c1 k

/-- Four characters are two pairs, the second of which does not reach into the first. -/
theorem writeText4_getElem (buf : Vector Byte 64) (seg : BitVec 4) (c0 c1 c2 c3 : Byte) (k : Fin 64) :
    (writeText4 buf seg c0 c1 c2 c3)[k] =
      if k.val = 4 * seg.toNat then c0 else if k.val = 4 * seg.toNat + 1 then c1
      else if k.val = 4 * seg.toNat + 2 then c2 else if k.val = 4 * seg.toNat + 3 then c3 else buf[k] := by
  unfold writeText4
  rw [setPair_getElem, setPair_getElem]
  by_cases hfirst : k.val < 4 * seg.toNat + 2
  · have h2 : k.val ≠ 4 * seg.toNat + 2 := by omega
    have h3 : k.val ≠ 4 * seg.toNat + 3 := by omega
    simp only [Nat.add_assoc, Nat.reduceAdd, h2, h3, if_false]
  · have h0 : k.val ≠ 4 * seg.toNat := by omega
    have h1 : k.val ≠ 4 * seg.toNat + 1 := by omega
    simp only [Nat.add_assoc, Nat.reduceAdd, h0, h1, if_false]

/-- Settles O36: the four characters are two pairs of the buffer, and the handler writes no other field. -/
theorem group2AWritesFourCharacters : Obligations.Group2AWritesFourCharacters := by
  intro hd ab seg c0 c1 c2 c3 s g h e
  exact ⟨_, exec_group h s, writeText4_getElem e.rtBuf seg c0 c1 c2 c3, textStored_rtMask_getLsbD ab seg _ e, rfl, rfl⟩

/-- Settles O37: the two characters are one pair of the buffer, and the handler writes no other field. -/
theorem group2BWritesTwoCharacters : Obligations.Group2BWritesTwoCharacters := by
  intro hd ab seg pr c0 c1 s g h e
  exact ⟨_, exec_group h s, writeText2_getElem e.rtBuf seg c0 c1, textStored_rtMask_getLsbD ab seg _ e, rfl, rfl⟩

/-! ## The leading segments (R224) -/

/-- If the first k elements pass and the one at k, if there is one, fails, the longest passing prefix is those k. -/
theorem takeWhile_eq_take {α : Type} {p : α → Bool} {l : List α} {k : Nat}
    (hpass : ∀ j < k, ∀ a, l[j]? = some a → p a = true) (hfail : ∀ a, l[k]? = some a → p a = false) :
    l.takeWhile p = l.take k := by
  have htake : ∀ a ∈ l.take k, p a = true := by
    intro a ha
    obtain ⟨j, hj, rfl⟩ := List.mem_take_iff_getElem.mp ha
    exact hpass j (by omega) _ (List.getElem?_eq_getElem _)
  have hdrop : (l.drop k).takeWhile p = [] := by
    cases hl : l.drop k with
    | nil => rfl
    | cons a rest =>
      have hka : l[k]? = some a := by rw [← List.head?_drop, hl]; rfl
      rw [List.takeWhile_cons_of_neg (by simp [hfail a hka])]
  conv_lhs => rw [← List.take_append_drop k l]
  rw [List.takeWhile_append_of_pos htake, hdrop, List.append_nil]

theorem leadingOnes_eq {m : BitVec 16} {n : Nat} (hn : n ≤ 16) (hset : ∀ k < n, m.getLsbD k = true)
    (hclear : n < 16 → m.getLsbD n = false) : leadingOnes m = n := by
  have hpass : ∀ j < n, ∀ a, (List.range 16)[j]? = some a → m.getLsbD a = true := by
    intro j hj a ha
    obtain ⟨-, rfl⟩ := List.getElem?_eq_some_iff.mp ha
    simpa using hset j hj
  have hfail : ∀ a, (List.range 16)[n]? = some a → m.getLsbD a = false := by
    intro a ha
    obtain ⟨hlt, rfl⟩ := List.getElem?_eq_some_iff.mp ha
    simpa using hclear (by simpa using hlt)
  rw [leadingOnes, takeWhile_eq_take hpass hfail]
  simpa using hn

/-! ## The text of the leading segments (R225, R226) -/

theorem textPrefix_getElem? {w k : Nat} {c : StationContext} (hk : k < w * leadingOnes c.rtMask) :
    (textPrefix w c)[k]? = c.rtBuf.toList[k]? :=
  List.getElem?_take_of_lt hk

theorem terminatedText_of_first {w k : Nat} {c : StationContext} (hk : k < w * leadingOnes c.rtMask)
    (hend : c.rtBuf.toList[k]? = some carriageReturn) (hfirst : ∀ j < k, c.rtBuf.toList[j]? ≠ some carriageReturn) :
    terminatedText w c = some (c.rtBuf.toList.take k) := by
  rw [← textPrefix_getElem? hk] at hend
  have hmem : carriageReturn ∈ textPrefix w c := List.mem_of_getElem? hend
  have hpass : ∀ j < k, ∀ b, (textPrefix w c)[j]? = some b → (b != carriageReturn) = true := by
    intro j hj b hb
    rw [textPrefix_getElem? (hj.trans hk)] at hb
    exact bne_iff_ne.mpr fun h => hfirst j hj (h ▸ hb)
  have hfail : ∀ b, (textPrefix w c)[k]? = some b → (b != carriageReturn) = false := by
    intro b hb
    simpa using (Option.some.inj (hend.symm.trans hb)).symm
  rw [terminatedText, if_pos (by simpa using hmem), takeWhile_eq_take hpass hfail, textPrefix, List.take_take,
    min_eq_left hk.le]

theorem terminatedText_of_none {w : Nat} {c : StationContext}
    (h : ∀ k < w * leadingOnes c.rtMask, c.rtBuf.toList[k]? ≠ some carriageReturn) : terminatedText w c = none := by
  have hmem : carriageReturn ∉ textPrefix w c := by
    intro hcr
    obtain ⟨k, hk, hget⟩ := List.mem_take_iff_getElem.mp hcr
    exact h k (by omega) (List.getElem?_eq_some_iff.mpr ⟨_, hget⟩)
  rw [terminatedText, if_neg (by simpa using hmem)]

/-- The messages of either version, w characters a segment, on the context it leaves: only 2A emits a full buffer that
has no terminator (R227, R228). -/
def textMessages (w : Nat) (c : StationContext) : List Message :=
  match terminatedText w c with
  | some text => [⟨.radioText, text⟩]
  | none => if w = 4 ∧ leadingOnes c.rtMask = 16 then [⟨.radioText, c.rtBuf.toList⟩] else []

theorem textMessages_of_some {w : Nat} {c : StationContext} {text : List Byte} (h : terminatedText w c = some text) :
    textMessages w c = [⟨.radioText, text⟩] := by
  rw [textMessages, h]

theorem textMessages_of_none {w : Nat} {c : StationContext} (h : terminatedText w c = none) :
    textMessages w c = if w = 4 ∧ leadingOnes c.rtMask = 16 then [⟨.radioText, c.rtBuf.toList⟩] else [] := by
  rw [textMessages, h]

theorem handle2A_eq (ab : Bool) (seg : BitVec 4) (c0 c1 c2 c3 : Byte) (c : StationContext) :
    handle2A ab seg c0 c1 c2 c3 c =
      (textStored ab seg (writeText4 c.rtBuf seg c0 c1 c2 c3) c,
        textMessages 4 (textStored ab seg (writeText4 c.rtBuf seg c0 c1 c2 c3) c)) := by
  simp only [textMessages, true_and]; rfl

theorem handle2B_eq (ab : Bool) (seg : BitVec 4) (c0 c1 : Byte) (c : StationContext) :
    handle2B ab seg c0 c1 c =
      (textStored ab seg (writeText2 c.rtBuf seg c0 c1) c,
        textMessages 2 (textStored ab seg (writeText2 c.rtBuf seg c0 c1) c)) := by
  simp only [textMessages, show ¬ (2 = 4) by decide, false_and, if_false]; rfl

/-- Either version emits after its announcement the text of the context it leaves. -/
theorem exec_type2 {hd : Head} {ab : Bool} {seg : BitVec 4} {c0 c1 c2 c3 : Byte} {pr : Word} {g : GroupWords}
    {x : Instr × Nat} (hx : x ∈ [(Instr.group2A hd ab seg c0 c1 c2 c3, 4), (Instr.group2B hd ab seg pr c0 c1, 2)])
    (h : encode x.1 = .group g) (s : State) :
    ∃ c, exec x.1 s = .next { s with ctx := c, chan := chanAfter (announced g s ++ textMessages x.2 c) s } := by
  simp only [List.mem_cons, List.not_mem_nil, or_false] at hx
  obtain rfl | rfl := hx
  · exact ⟨_, by rw [exec_group h, handlerOf, handle2A_eq]⟩
  · exact ⟨_, by rw [exec_group h, handlerOf, handle2B_eq]⟩

/-- Settles O38: n is the number of leading segments, and the text is the one their characters hold or do not hold a
terminator for. -/
theorem radioTextIsEmittedUpToItsTerminator : Obligations.RadioTextIsEmittedUpToItsTerminator := by
  intro hd ab seg c0 c1 c2 c3 pr s g x hx h
  obtain ⟨c, hexec⟩ := exec_type2 hx h s
  refine ⟨_, hexec, fun n hn hset hclear => ?_⟩
  obtain rfl : leadingOnes c.rtMask = n := leadingOnes_eq hn hset hclear
  refine ⟨fun k hk hend hfirst => ?_, fun hnone => ?_⟩
  · rw [← textMessages_of_some (terminatedText_of_first hk hend hfirst)]
  · rw [← textMessages_of_none (terminatedText_of_none hnone)]

end Sys2Proof.Machine
end

section
/-! PROOFS. Group 4A, clock time: the decimal spellings (R10), MJD_TO_DATE without negative numbers (R242), and the text
the group emits (R241, R243). -/

namespace Sys2Proof.Machine

/-! ## Decimal spelling (R10) -/

theorem digit_toNat {d : Nat} (hd : d < 10) : (digit d).toNat = 0x30 + d := by
  rw [digit, BitVec.toNat_ofNat, Nat.mod_eq_of_lt (by omega)]

/-- Fuel beyond the number's value changes nothing. -/
theorem decDigits_eq_dec {fuel v : Nat} (h : v < fuel) : decDigits fuel v = dec v := by
  induction fuel using Nat.strong_induction_on generalizing v with
  | _ fuel ih =>
    obtain ⟨n, rfl⟩ : ∃ n, fuel = n + 1 := ⟨fuel - 1, by omega⟩
    by_cases hv : v < 10
    · simp only [dec, decDigits, if_pos hv]
    · have hbig : decDigits n (v / 10) = dec (v / 10) := ih n (by omega) (by omega)
      have hown : decDigits v (v / 10) = dec (v / 10) := ih v h (by omega)
      simp only [dec, decDigits, if_neg hv] at hbig hown ⊢
      rw [hbig, hown]

theorem dec_of_lt_ten {v : Nat} (hv : v < 10) : dec v = [digit v] := by
  rw [dec, decDigits, if_pos hv]

theorem dec_of_ten_le {v : Nat} (hv : 10 ≤ v) : dec v = dec (v / 10) ++ [digit (v % 10)] := by
  rw [dec, decDigits, if_neg (by omega), decDigits_eq_dec (by omega)]

/-- Induction on the number of decimal digits. -/
theorem decimal_induction {P : Nat → Prop} (last : ∀ v < 10, P v) (more : ∀ v, 10 ≤ v → P (v / 10) → P v) (v : Nat) :
    P v := by
  induction v using Nat.strong_induction_on with
  | _ v ih =>
    by_cases hv : v < 10
    · exact last v hv
    · exact more v (by omega) (ih (v / 10) (by omega))

theorem isDigit_of_mem_dec (v : Nat) : ∀ c ∈ dec v, 0x30 ≤ c.toNat ∧ c.toNat ≤ 0x39 := by
  have hdigit : ∀ d < 10, 0x30 ≤ (digit d).toNat ∧ (digit d).toNat ≤ 0x39 := by
    intro d hd
    rw [digit_toNat hd]
    omega
  induction v using decimal_induction with
  | last v hv => simpa [dec_of_lt_ten hv] using hdigit v hv
  | more v hv ih =>
    intro c hc
    rw [dec_of_ten_le hv, List.mem_append, List.mem_singleton] at hc
    obtain hc | rfl := hc
    · exact ih c hc
    · exact hdigit _ (Nat.mod_lt v (by decide))

/-- Reading the digits back gives the number. -/
theorem foldl_dec (v : Nat) : (dec v).foldl (fun n c => 10 * n + (c.toNat - 0x30)) 0 = v := by
  induction v using decimal_induction with
  | last v hv => simp [dec_of_lt_ten hv, digit_toNat hv]
  | more v hv ih =>
    rw [dec_of_ten_le hv, List.foldl_append, ih, List.foldl_cons, List.foldl_nil, digit_toNat (Nat.mod_lt v (by decide))]
    omega

theorem dec_ne_nil (v : Nat) : dec v ≠ [] := by
  obtain hv | hv := Nat.lt_or_ge v 10
  · simp [dec_of_lt_ten hv]
  · simp [dec_of_ten_le hv]

/-- Only 0 is spelled with a leading zero. -/
theorem eq_zero_of_head?_dec {v : Nat} (h : (dec v).head? = some 0x30#8) : v = 0 := by
  induction v using decimal_induction with
  | last v hv =>
    rw [dec_of_lt_ten hv, List.head?_singleton, Option.some.injEq] at h
    have hval := congrArg BitVec.toNat h
    rw [digit_toNat hv] at hval
    simpa using hval
  | more v hv ih =>
    rw [dec_of_ten_le hv, List.head?_append_of_ne_nil _ (dec_ne_nil _)] at h
    have := ih h
    omega

/-! ## MJD_TO_DATE in natural numbers (R242) -/

/-- R242's y: years counted from 1900, each starting on 1 March. -/
def mjdYear (mjd : Nat) : Nat := (100 * mjd - 1507820) / 36525

/-- The day in the year y that R242 takes month and day from; 123 is 1 March. -/
def mjdYearDay (mjd : Nat) : Nat := mjd - 14956 - 1461 * mjdYear mjd / 4

/-- R242's m: 4 is March and 15 the February that follows. -/
def mjdMonth (mjd : Nat) : Nat := (10000 * mjdYearDay mjd - 1000) / 306001

/-- R242's k: whether the month lies in the calendar year after y. -/
def mjdYearCarry (mjd : Nat) : Nat := if mjdMonth mjd = 14 ∨ mjdMonth mjd = 15 then 1 else 0

theorem mjdYear_cast {mjd : Nat} (h : 15079 ≤ mjd) : (mjdYear mjd : Int) = (100 * (mjd : Int) - 1507820) / 36525 := by
  unfold mjdYear
  omega

/-- From R242's day 0 of the year y, the MJD lies at least 123 days on. -/
theorem le_mjd_of_year {mjd : Nat} (h : 15079 ≤ mjd) : 14956 + 1461 * mjdYear mjd / 4 + 123 ≤ mjd := by
  unfold mjdYear
  omega

theorem mjdYearDay_ge {mjd : Nat} (h : 15079 ≤ mjd) : 123 ≤ mjdYearDay mjd := by
  have := le_mjd_of_year h
  unfold mjdYearDay
  omega

theorem mjdYearDay_cast {mjd : Nat} (h : 15079 ≤ mjd) :
    (mjdYearDay mjd : Int) = (mjd : Int) - 14956 - 1461 * (mjdYear mjd : Int) / 4 := by
  have := le_mjd_of_year h
  unfold mjdYearDay
  omega

theorem mjdMonth_cast {mjd : Nat} (h : 15079 ≤ mjd) :
    (mjdMonth mjd : Int) = (10000 * (mjdYearDay mjd : Int) - 1000) / 306001 := by
  have := mjdYearDay_ge h
  unfold mjdMonth
  omega

theorem mjdMonth_ge {mjd : Nat} (h : 15079 ≤ mjd) : 4 ≤ mjdMonth mjd := by
  have := mjdYearDay_ge h
  unfold mjdMonth
  omega

theorem mjdYearCarry_cast (mjd : Nat) :
    (mjdYearCarry mjd : Int) = if (mjdMonth mjd : Int) = 14 ∨ (mjdMonth mjd : Int) = 15 then 1 else 0 := by
  rw [mjdYearCarry, Nat.cast_ite]
  norm_cast

/-- In R242's domain no difference is negative, so its formula gives the same date in natural numbers (R314). -/
theorem mjdToDate_eq {mjd : Nat} (h : 15079 ≤ mjd) :
    mjdToDate mjd = {
      day := mjdYearDay mjd - 306001 * mjdMonth mjd / 10000
      month := mjdMonth mjd - 1 - 12 * mjdYearCarry mjd
      year := 1900 + mjdYear mjd + mjdYearCarry mjd } := by
  have hmonth := mjdMonth_ge h
  simp only [mjdToDate, ← mjdYear_cast h, ← mjdYearDay_cast h, ← mjdMonth_cast h, ← mjdYearCarry_cast, Date.mk.injEq]
  omega

/-! ## The text (R241, R243) -/

/-- Settles O39: the spellings are those of `dec`, and the date is R242's in natural numbers wherever a text is emitted. -/
theorem group4AEmitsTheClockText : Obligations.Group4AEmitsTheClockText := by
  refine ⟨fun v => ⟨isDigit_of_mem_dec v, foldl_dec v, dec_ne_nil v, fun hzero => ?_, rfl, rfl⟩, fun _ => rfl, ?_⟩
  · rw [eq_zero_of_head?_dec hzero]; rfl
  · intro hd f s g h mjd y ya m ma k text
    have hmessages : (handle4A f (enteredContext g s)).2 = if mjd < 15079 then [] else [⟨.clocktime, text⟩] := by
      by_cases hlow : mjd < 15079
      · exact (if_pos hlow).trans (if_pos hlow).symm
      · have htext : clockText (mjdToDate mjd) f = text := by rw [mjdToDate_eq (by omega)]; rfl
        rw [← htext]; rfl
    rw [exec_group h, ← hmessages]; rfl

end Sys2Proof.Machine
end

section
/-! PROOFS. Group 8A, Traffic Message Channel: the handler by class of group (R260 to R264) and that it emits nothing
(R266). -/

namespace Sys2Proof.Machine

/-! ## The classes (R260) -/

/-- Tuning information (R261) and single-group messages (R262) write nothing. -/
theorem handle8A_of_no_multiGroup {m : TmcFields} (h : m.t = true ∨ m.f = true) (c : StationContext) :
    handle8A m c = (c, []) :=
  if_pos (by simpa using h)

/-- A multi-group message writes its continuity index, and all but its first group store their free format
(R263, R264). -/
theorem handle8A_of_multiGroup {m : TmcFields} (ht : m.t = false) (hf : m.f = false) (c : StationContext) :
    handle8A m c =
      if m.first then ({ c with tmcCi := m.ci }, []) else (tmcStore m { c with tmcCi := m.ci }, []) :=
  if_neg (by simp [ht, hf])

theorem handle8A_messages (m : TmcFields) (c : StationContext) : (handle8A m c).2 = [] := by
  by_cases h : m.t = true ∨ m.f = true
  · rw [handle8A_of_no_multiGroup h]
  · obtain ⟨ht, hf⟩ : m.t = false ∧ m.f = false := by simpa using h
    rw [handle8A_of_multiGroup ht hf]
    split <;> rfl

/-! ## The operation (R264, R266) -/

theorem tmcStore_tmcFf_getElem (m : TmcFields) (c : StationContext) (k : Fin 4) :
    (tmcStore m c).tmcFf[k] = if k.val = m.gsi.toNat then m.ff else c.tmcFf[k] := by
  simp only [tmcStore, Fin.getElem_fin, Vector.getElem_setIfInBounds, eq_comm (b := k.val)]

theorem exec_group8A {hd : Head} {m : TmcFields} {g : GroupWords} (h : encode (.group8A hd m) = .group g) (s : State) :
    exec (.group8A hd m) s =
      .next { s with ctx := (handle8A m (enteredContext g s)).1, chan := chanAfter (announced g s) s } := by
  rw [exec_group h, handlerOf, handle8A_messages, List.append_nil]

/-- Settles O42: the context is the handler's, class by class. -/
theorem group8AKeepsTheTmcState : Obligations.Group8AKeepsTheTmcState := by
  intro hd m s g h e
  refine ⟨_, exec_group8A h s, rfl, fun ht => ?tuning, fun _ hf => ?single, fun ht hf hfirst => ?first,
    fun ht hf hfirst => ?subsequent⟩
  case tuning => exact congrArg Prod.fst (handle8A_of_no_multiGroup (.inl ht) e)
  case single => exact congrArg Prod.fst (handle8A_of_no_multiGroup (.inr hf) e)
  case first =>
    have hctx : handle8A m e = ({ e with tmcCi := m.ci }, []) := by rw [handle8A_of_multiGroup ht hf, hfirst]; rfl
    exact congrArg Prod.fst hctx
  case subsequent =>
    have hctx : handle8A m e = (tmcStore m { e with tmcCi := m.ci }, []) := by
      rw [handle8A_of_multiGroup ht hf, hfirst]; rfl
    rw [hctx]
    exact ⟨tmcStore_tmcFf_getElem m { e with tmcCi := m.ci }, rfl⟩

end Sys2Proof.Machine
end

section
/-! PROOFS. The message channel: the frame's layout (R283), the saturating drop count (R285) and emission (R284, R292). -/

namespace Sys2Proof.Machine

/-- R283, R292: the two length bytes are the high and the low half of the payload's length. -/
theorem frame_eq_append (m : Message) :
    frame m = [m.kind.code, BitVec.ofNat 8 (m.payload.length >>> 8), BitVec.ofNat 8 (m.payload.length &&& 0xFF)] ++
      m.payload := by
  have hhigh : m.payload.length / 256 = m.payload.length >>> 8 := (Nat.shiftRight_eq_div_pow _ 8).symm
  have hlow : BitVec.ofNat 8 m.payload.length = BitVec.ofNat 8 (m.payload.length &&& 0xFF) :=
    BitVec.eq_of_toNat_eq (by rw [Nat.and_two_pow_sub_one_eq_mod _ 8]; simp)
  rw [frame, hhigh, hlow]
  rfl

/-- R285: one more drop, up to 0xFFFF. -/
theorem countDrop_toNat (n : BitVec 16) : (countDrop n).toNat = min (n.toNat + 1) 0xFFFF := by
  unfold countDrop
  split
  case isTrue h =>
    rw [BitVec.toNat_add_of_lt (show n.toNat + 1 < 2 ^ 16 by omega)]
    exact (min_eq_left h).symm
  case isFalse => omega

/-- Settles O43: `emit` queues or drops by the free space, which is the capacity less the queue, since the queue is within
the capacity. -/
theorem emitQueuesOrDropsWhole : Obligations.EmitQueuesOrDropsWhole := by
  refine ⟨rfl, fun cap c m hcap => ?_⟩
  rw [← frame_eq_append]
  rcases emit_cases cap c m with ⟨he, hfits⟩ | ⟨he, hfull⟩
  · rw [he]
    rw [frame_length] at hfits
    exact ⟨fun _ => ⟨rfl, rfl⟩, fun hnot => by omega⟩
  · rw [he]
    rw [frame_length] at hfull
    exact ⟨fun hnot => by omega, fun _ => ⟨rfl, countDrop_toNat c.dropCount⟩⟩

end Sys2Proof.Machine
end

section
/-! PROOFS. The decoder and the encoder are inverse to each other, operation by operation and word by word (R84, R85,
R88 to R92, R322), and the statements of 30_encoding.md on the decoder. -/

namespace Sys2Proof.Machine

/-! ## The decoder reads what the encoder writes -/

theorem cast_extractLsb'_zero {n w : Nat} (h : n = w) (x : BitVec w) : (x.extractLsb' 0 n).cast h = x := by
  subst h
  simp

theorem ofBool_getLsbD {n : Nat} (x : BitVec n) (i : Nat) : BitVec.ofBool (x.getLsbD i) = x.extractLsb' i 1 := by
  ext k hk
  obtain rfl : k = 0 := by omega
  simp

@[simp] theorem typeCode_headerWord (code : BitVec 5) (hd : Head) (low5 : BitVec 5) :
    typeCode (headerWord code hd low5) = code := by
  simp only [typeCode, headerWord, BitVec.extractLsb'_cast, BitVec.extractLsb'_append_eq_of_le, Nat.reduceLeDiff,
    Nat.reduceSub, BitVec.extractLsb'_eq_self]

theorem headerWord_extractLsb'_low (code : BitVec 5) (hd : Head) (low5 : BitVec 5) {start len : Nat}
    (h : start + len ≤ 5) : (headerWord code hd low5).extractLsb' start len = low5.extractLsb' start len := by
  simp only [headerWord, BitVec.extractLsb'_cast, BitVec.extractLsb'_append_eq_of_add_le h]

theorem headerWord_getLsbD_low (code : BitVec 5) (hd : Head) (low5 : BitVec 5) {k : Nat} (h : k < 5) :
    (headerWord code hd low5).getLsbD k = low5.getLsbD k := by
  simp only [headerWord, BitVec.getLsbD_cast, BitVec.getLsbD_append, h, if_true]

@[simp] theorem hiByte_bytePair (hi lo : Byte) : hiByte (bytePair hi lo) = hi := by
  simp only [hiByte, bytePair, BitVec.extractLsb'_cast, BitVec.extractLsb'_append_eq_left]

@[simp] theorem loByte_bytePair (hi lo : Byte) : loByte (bytePair hi lo) = lo := by
  simp only [loByte, bytePair, BitVec.extractLsb'_cast, BitVec.extractLsb'_append_eq_right]

@[simp] theorem tuningOf_headerWord (code : BitVec 5) (hd : Head) (t : Tuning) :
    tuningOf (headerWord code hd (tuningBits t)) = t := by
  simp only [tuningOf, headerWord_getLsbD_low, headerWord_extractLsb'_low, Nat.reduceLT, Nat.reduceLeDiff, tuningBits,
    BitVec.getLsbD_cast, BitVec.getLsbD_append, BitVec.extractLsb'_cast, BitVec.extractLsb'_append_eq_right]
  simp

@[simp] theorem textFlagOf_headerWord (code : BitVec 5) (hd : Head) (ab : Bool) (seg : BitVec 4) :
    textFlagOf (headerWord code hd (textBits ab seg)) = ab := by
  simp only [textFlagOf, headerWord_getLsbD_low, Nat.reduceLT, textBits, BitVec.getLsbD_cast, BitVec.getLsbD_append]
  simp

@[simp] theorem textSegOf_headerWord (code : BitVec 5) (hd : Head) (ab : Bool) (seg : BitVec 4) :
    textSegOf (headerWord code hd (textBits ab seg)) = seg := by
  simp only [textSegOf, headerWord_extractLsb'_low, Nat.reduceLeDiff, textBits, BitVec.extractLsb'_cast,
    BitVec.extractLsb'_append_eq_right]

@[simp] theorem clockOf_group4AWords (hd : Head) (c : ClockFields) : clockOf (group4AWords hd c) = c := by
  simp only [clockOf, group4AWords, headerWord_extractLsb'_low, Nat.reduceLeDiff, Nat.reduceSub,
    BitVec.extractLsb'_cast, BitVec.extractLsb'_append_eq_right, BitVec.extractLsb'_append_eq_of_le,
    BitVec.extractLsb'_eq_self, BitVec.extractLsb'_append_extractLsb'_eq_extractLsb', BitVec.getLsbD_cast,
    BitVec.getLsbD_append]
  simp

@[simp] theorem tmcOf_group8AWords (hd : Head) (m : TmcFields) : tmcOf (group8AWords hd m) = m := by
  simp only [tmcOf, group8AWords, headerWord_extractLsb'_low, headerWord_getLsbD_low, Nat.reduceLT, Nat.reduceLeDiff,
    Nat.reduceSub, BitVec.extractLsb'_cast, BitVec.extractLsb'_append_eq_right, BitVec.extractLsb'_append_eq_of_le,
    BitVec.extractLsb'_append_extractLsb'_eq_extractLsb', cast_extractLsb'_zero, BitVec.getLsbD_cast,
    BitVec.getLsbD_append]
  simp

@[simp] theorem unreadOf_unreadWords (code : BitVec 5) (hd : Head) (u : Unread) :
    unreadOf (unreadWords code hd u) = u := by
  simp only [unreadOf, unreadWords, headerWord_extractLsb'_low, Nat.reduceLeDiff, BitVec.extractLsb'_eq_self]

theorem decodeGroup_group0AWords (hd : Head) (tune : Tuning) (afHi afLo c0 c1 : Byte) :
    decodeGroup (group0AWords hd tune afHi afLo c0 c1) = .group0A hd tune afHi afLo c0 c1 := by
  simp [decodeGroup, group0AWords, headOf_headerWord]

theorem decodeGroup_group0BWords (hd : Head) (tune : Tuning) (piRepeat : Word) (c0 c1 : Byte) :
    decodeGroup (group0BWords hd tune piRepeat c0 c1) = .group0B hd tune piRepeat c0 c1 := by
  simp [decodeGroup, group0BWords, headOf_headerWord]

theorem decodeGroup_group2AWords (hd : Head) (ab : Bool) (seg : BitVec 4) (c0 c1 c2 c3 : Byte) :
    decodeGroup (group2AWords hd ab seg c0 c1 c2 c3) = .group2A hd ab seg c0 c1 c2 c3 := by
  simp [decodeGroup, group2AWords, headOf_headerWord]

theorem decodeGroup_group2BWords (hd : Head) (ab : Bool) (seg : BitVec 4) (piRepeat : Word) (c0 c1 : Byte) :
    decodeGroup (group2BWords hd ab seg piRepeat c0 c1) = .group2B hd ab seg piRepeat c0 c1 := by
  simp [decodeGroup, group2BWords, headOf_headerWord]

theorem decodeGroup_group4AWords (hd : Head) (c : ClockFields) :
    decodeGroup (group4AWords hd c) = .group4A hd c := by
  have hcode : typeCode (group4AWords hd c).b1 = 8#5 := typeCode_headerWord ..
  have hhd : headOf (group4AWords hd c) = hd := headOf_headerWord ..
  simp [decodeGroup, hcode, hhd]

theorem decodeGroup_group8AWords (hd : Head) (m : TmcFields) :
    decodeGroup (group8AWords hd m) = .group8A hd m := by
  have hcode : typeCode (group8AWords hd m).b1 = 16#5 := typeCode_headerWord ..
  have hhd : headOf (group8AWords hd m) = hd := headOf_headerWord ..
  simp [decodeGroup, hcode, hhd]

@[simp] theorem typeCode_unreadWords (code : BitVec 5) (hd : Head) (u : Unread) :
    typeCode (unreadWords code hd u).b1 = code := typeCode_headerWord ..

@[simp] theorem headOf_unreadWords (code : BitVec 5) (hd : Head) (u : Unread) : headOf (unreadWords code hd u) = hd :=
  headOf_headerWord ..

/-- Settles O1: each group's code selects its own arm of the decoder, which reads every field back. -/
theorem decodeOfEncodeIsIdentity : Obligations.DecodeOfEncodeIsIdentity := by
  intro i
  cases i
  case bit0 | bit1 | ctxReset | hardReset => exact ⟨rfl, rfl⟩
  all_goals refine ⟨rfl, congrArg Except.ok ?_⟩
  case group0A => exact decodeGroup_group0AWords ..
  case group0B => exact decodeGroup_group0BWords ..
  case group2A => exact decodeGroup_group2AWords ..
  case group2B => exact decodeGroup_group2BWords ..
  case group4A => exact decodeGroup_group4AWords ..
  case group8A => exact decodeGroup_group8AWords ..
  all_goals simp [decodeGroup]

/-! ## The encoder writes back what the decoder read -/

theorem headerWord_eq {g : GroupWords} {code low5 : BitVec 5} (hcode : (typeCode g.b1).toNat = code.toNat)
    (hlow : low5 = g.b1.extractLsb' 0 5) : headerWord code (headOf g) low5 = g.b1 := by
  obtain rfl := BitVec.eq_of_toNat_eq hcode
  simp only [hlow, headerWord, typeCode, headOf, ofBool_getLsbD, BitVec.extractLsb'_append_extractLsb'_eq_extractLsb',
    cast_extractLsb'_zero]

theorem tuningBits_tuningOf (w : Word) : tuningBits (tuningOf w) = w.extractLsb' 0 5 := by
  simp only [tuningBits, tuningOf, ofBool_getLsbD, BitVec.extractLsb'_append_extractLsb'_eq_extractLsb', BitVec.cast_eq]

theorem textBits_textFlagOf_textSegOf (w : Word) : textBits (textFlagOf w) (textSegOf w) = w.extractLsb' 0 5 := by
  simp only [textBits, textFlagOf, textSegOf, ofBool_getLsbD, BitVec.extractLsb'_append_extractLsb'_eq_extractLsb',
    BitVec.cast_eq]

theorem bytePair_hiByte_loByte (w : Word) : bytePair (hiByte w) (loByte w) = w := by
  simp only [bytePair, hiByte, loByte, BitVec.extractLsb'_append_extractLsb'_eq_extractLsb', cast_extractLsb'_zero]

theorem group0AWords_of_typeCode {g : GroupWords} (h : (typeCode g.b1).toNat = 0) :
    group0AWords (headOf g) (tuningOf g.b1) (hiByte g.b2) (loByte g.b2) (hiByte g.b3) (loByte g.b3) = g := by
  rw [group0AWords, headerWord_eq (code := 0#5) h (tuningBits_tuningOf g.b1), bytePair_hiByte_loByte,
    bytePair_hiByte_loByte]
  rfl

theorem group0BWords_of_typeCode {g : GroupWords} (h : (typeCode g.b1).toNat = 1) :
    group0BWords (headOf g) (tuningOf g.b1) g.b2 (hiByte g.b3) (loByte g.b3) = g := by
  rw [group0BWords, headerWord_eq (code := 1#5) h (tuningBits_tuningOf g.b1), bytePair_hiByte_loByte]
  rfl

theorem group2AWords_of_typeCode {g : GroupWords} (h : (typeCode g.b1).toNat = 4) :
    group2AWords (headOf g) (textFlagOf g.b1) (textSegOf g.b1) (hiByte g.b2) (loByte g.b2) (hiByte g.b3) (loByte g.b3) =
      g := by
  rw [group2AWords, headerWord_eq (code := 4#5) h (textBits_textFlagOf_textSegOf g.b1), bytePair_hiByte_loByte,
    bytePair_hiByte_loByte]
  rfl

theorem group2BWords_of_typeCode {g : GroupWords} (h : (typeCode g.b1).toNat = 5) :
    group2BWords (headOf g) (textFlagOf g.b1) (textSegOf g.b1) g.b2 (hiByte g.b3) (loByte g.b3) = g := by
  rw [group2BWords, headerWord_eq (code := 5#5) h (textBits_textFlagOf_textSegOf g.b1), bytePair_hiByte_loByte]
  rfl

theorem group4AWords_of_typeCode {g : GroupWords} (h : (typeCode g.b1).toNat = 8) :
    group4AWords (headOf g) (clockOf g) = g := by
  have hb1 := headerWord_eq (code := 8#5) h rfl
  simp only [group4AWords, clockOf, ofBool_getLsbD, BitVec.extractLsb'_append_extractLsb'_eq_extractLsb',
    BitVec.extractLsb'_append_eq_right, BitVec.extractLsb'_append_eq_left, BitVec.cast_eq, hb1]
  simp [headOf]

theorem group8AWords_of_typeCode {g : GroupWords} (h : (typeCode g.b1).toNat = 16) :
    group8AWords (headOf g) (tmcOf g) = g := by
  have hb1 := headerWord_eq (code := 16#5) h rfl
  simp only [group8AWords, tmcOf, ofBool_getLsbD, BitVec.extractLsb'_append_extractLsb'_eq_extractLsb',
    BitVec.extractLsb'_append_eq_right, BitVec.extractLsb'_append_eq_left, BitVec.cast_eq, hb1]
  simp [headOf]

theorem unreadWords_of_typeCode {g : GroupWords} {code : BitVec 5} (h : (typeCode g.b1).toNat = code.toNat) :
    unreadWords code (headOf g) (unreadOf g) = g :=
  congrArg (GroupWords.mk g.b0 · g.b2 g.b3) (headerWord_eq h rfl)

theorem encode_decodeGroup (g : GroupWords) : encode (decodeGroup g) = .group g := by
  unfold decodeGroup
  split <;> refine congrArg OpWord.group ?_
  case h_1 h => exact group0AWords_of_typeCode h
  case h_2 h => exact group0BWords_of_typeCode h
  case h_5 h => exact group2AWords_of_typeCode h
  case h_6 h => exact group2BWords_of_typeCode h
  case h_9 h => exact group4AWords_of_typeCode h
  case h_17 h => exact group8AWords_of_typeCode h
  case h_32 =>
    have hlt := (typeCode g.b1).isLt
    have h31 : (typeCode g.b1).toNat = 31 := by simp only [imp_false] at *; omega
    exact unreadWords_of_typeCode h31
  all_goals exact unreadWords_of_typeCode ‹_›

/-- Settles O2: by the port a word stands on; on the group form, every word of the group is written back. -/
theorem encodeOfDecodeIsIdentity : Obligations.EncodeOfDecodeIsIdentity := by
  intro w
  have hbit : ∀ r : BitVec 1, r = 0#1 ∨ r = 1#1 := by decide
  cases w with
  | bitPort r => rcases hbit r with rfl | rfl <;> exact ⟨fun _ => ⟨_, rfl, rfl⟩, by simp [OpWord.wellFormed]⟩
  | ctxResetPort r =>
    rcases hbit r with rfl | rfl
    · exact ⟨by simp [OpWord.wellFormed], fun _ => ⟨_, rfl⟩⟩
    · exact ⟨fun _ => ⟨_, rfl, rfl⟩, by simp [OpWord.wellFormed]⟩
  | rstPort r =>
    rcases hbit r with rfl | rfl
    · exact ⟨by simp [OpWord.wellFormed], fun _ => ⟨_, rfl⟩⟩
    · exact ⟨fun _ => ⟨_, rfl, rfl⟩, by simp [OpWord.wellFormed]⟩
  | group g => exact ⟨fun _ => ⟨decodeGroup g, rfl, encode_decodeGroup g⟩, by simp [OpWord.wellFormed]⟩

theorem decodeGroup_eq_of_encode {i : Instr} {g : GroupWords} (h : encode i = .group g) : decodeGroup g = i := by
  obtain ⟨-, hdecode⟩ := decodeOfEncodeIsIdentity i
  rw [h] at hdecode
  exact Except.ok.inj hdecode

/-- An operation is an input bit, a reset, or a group's (R12). -/
theorem instr_cases (i : Instr) :
    (∃ b, i = bitInstr b) ∨ i = .ctxReset ∨ i = .hardReset ∨ ∃ g, encode i = .group g := by
  cases i
  case bit0 => exact .inl ⟨false, rfl⟩
  case bit1 => exact .inl ⟨true, rfl⟩
  case ctxReset => exact .inr (.inl rfl)
  case hardReset => exact .inr (.inr (.inl rfl))
  all_goals exact .inr (.inr (.inr ⟨_, rfl⟩))

/-! ## The opcode table (R88) -/

theorem typeCode_toNat (b1 : Word) :
    (typeCode b1).toNat = 2 * (b1.extractLsb' 12 4).toNat + (b1.extractLsb' 11 1).toNat := by
  simp only [typeCode, BitVec.extractLsb'_toNat, Nat.shiftRight_eq_div_pow]
  omega

/-- A group operation's row is the one of its word's code. -/
theorem tableRow_of_encode {i : Instr} {g : GroupWords} (h : encode i = .group g) :
    tableRow i = ⟨.groupHeader, 0xF800, 2048 * (typeCode g.b1).toNat⟩ := by
  cases i
  case bit0 | bit1 | ctxReset | hardReset => simp [encode] at h
  all_goals
    obtain rfl := OpWord.group.inj h
    refine .trans ?_ (congrArg (TableRow.mk .groupHeader 0xF800 <| 2048 * BitVec.toNat ·) (typeCode_headerWord ..).symm)
    rfl

/-- Settles O3: the row of the operation whose word the group is. -/
theorem groupTypeCodeSelectsTheRow : Obligations.GroupTypeCodeSelectsTheRow := by
  intro g
  exact ⟨decodeGroup g, rfl, by rw [← typeCode_toNat, tableRow_of_encode (encode_decodeGroup g)]⟩

/-- Settles O4: by running the decoder on each word. -/
theorem sampleWordsDecode : Obligations.SampleWordsDecode := by
  refine ⟨rfl, rfl, rfl, rfl, ?_, ?_, ?_, ?_, ?_, ?_⟩ <;> decide

end Sys2Proof.Machine
end

section
/-! PROOFS. The group assembler: what a block does to the assembly (R150 to R156), which groups a bit decodes, and that
the words an assembly has not stored are never read (R31, U2). -/

namespace Sys2Proof.Machine

/-! ## DECODE_GROUP as an operation (R160) -/

/-- The operation a group selects is a group operation, and its effect is DECODE_GROUP's. -/
theorem exec_decodeGroup (g : GroupWords) (s : State) : exec (decodeGroup g) s = .next (decodeGroupOp g s) := by
  have henc := encode_decodeGroup g
  refine exec_eq_runGroup _ s ?_ ?_ ?_ ?_ <;> intro h <;> rw [h] at henc <;> cases henc

theorem exec_eq_decodeGroupOp {i : Instr} {g : GroupWords} (h : encode i = .group g) (s : State) :
    exec i s = .next (decodeGroupOp g s) := by
  rw [← exec_decodeGroup, decodeGroup_eq_of_encode h]

theorem decodeGroupOp_setAssembler (g : GroupWords) (s : State) (a : Assembler) :
    decodeGroupOp g (s.setAssembler a) = (decodeGroupOp g s).setAssembler a :=
  runGroup_setAssembler ..

/-! ## What a block does to the assembly (R150 to R154) -/

theorem assemble_zero (d : Word) (good : Bool) (s : State) :
    assemble 0#2 d good s = s.setAssembler (if good then s.assembler.start d else s.assembler.clear) := rfl

section
variable {p : BitVec 2} {s : State} (hp : p ≠ 0#2)
include hp

theorem assemble_of_idle (h : s.assembler.inProgress = false) (d : Word) (good : Bool) : assemble p d good s = s := by
  simp [assemble, hp, h]

variable (h : s.assembler.inProgress = true)
include h

theorem assemble_of_bad (d : Word) : assemble p d false s = s.setAssembler s.assembler.clear := by
  simp [assemble, hp, h]

theorem assemble_of_good {d : Word} (hc : (s.assembler.goodCount + 1).toNat ≠ 4) :
    assemble p d true s = s.setAssembler (s.assembler.store p d) := by
  have hstore : (s.assembler.store p d).goodCount.toNat ≠ 4 := hc
  simp [assemble, storeBlock, hp, h, hstore]

theorem assemble_of_fourth {d : Word} (hc : (s.assembler.goodCount + 1).toNat = 4) :
    assemble p d true s =
      (decodeGroupOp (s.assembler.store p d).words s).setAssembler (s.assembler.store p d).clear := by
  have hstore : (s.assembler.store p d).goodCount.toNat = 4 := hc
  simp [assemble, storeBlock, hp, h, hstore, decodeGroupOp_setAssembler]

end

/-- Settles O19: each rule is one of the equations of `assemble`. -/
theorem assemblerStartsStoresAndAborts : Obligations.AssemblerStartsStoresAndAborts := by
  intro d s
  refine ⟨rfl, rfl, fun p hp => ⟨fun h => assemble_of_idle hp h d, fun h => ⟨assemble_of_bad hp h d, fun hc => ?_⟩⟩⟩
  exact assemble_of_good hp h (by rw [BitVec.toNat_add_of_lt] <;> simp <;> omega)

/-! ## Which groups a bit decodes (R154, R156) -/

/-- A bit in a state that searches writes the synchronizer alone, or locks and clears the assembly, whichever assembly
it finds. -/
theorem bitStep_of_search_setAssembler {s : State} (hs : s.synchronizer.syncState ≠ .sync) (b : Bool) :
    ∃ y, (y.syncState ≠ .sync ∧ ∀ a, bitStep b (s.setAssembler a) = (s.setSynchronizer y).setAssembler a) ∨
      (y.syncState = .sync ∧ ∀ a, bitStep b (s.setAssembler a) = (s.setSynchronizer y).setAssembler a.clear) := by
  have hbit : ∀ a, bitStep b (s.setAssembler a) = (search (shifted b (s.setAssembler a))).setSynchronizer
      (tick s.params.bitctrW (search (shifted b (s.setAssembler a))).synchronizer) :=
    fun a => bitStep_of_search (s := s.setAssembler a) hs b
  have hfinds : ∀ a, findOffset (shifted b (s.setAssembler a)).synchronizer.window =
      findOffset (shifted b s).synchronizer.window := fun _ => rfl
  cases hf : findOffset (shifted b s).synchronizer.window with
  | none =>
    refine ⟨tick s.params.bitctrW (shiftWindow b s.synchronizer), .inl ⟨hs, fun a => ?_⟩⟩
    rw [hbit, search_of_no_match ((hfinds a).trans hf)]; rfl
  | some j =>
    by_cases hp : s.synchronizer.syncState = .preSync
    · by_cases hfit : pairs s.params.bitctrW j s.synchronizer = true
      · refine ⟨tick s.params.bitctrW (lock j (shiftWindow b s.synchronizer)), .inr ⟨rfl, fun a => ?_⟩⟩
        rw [hbit, (search_of_second_match ((hfinds a).trans hf) hp).trans (if_pos hfit)]; rfl
      · refine ⟨tick s.params.bitctrW (dropPairing (shiftWindow b s.synchronizer)),
          .inl ⟨by simp [tick, dropPairing], fun a => ?_⟩⟩
        rw [hbit, (search_of_second_match ((hfinds a).trans hf) hp).trans (if_neg hfit)]; rfl
    · refine ⟨tick s.params.bitctrW (firstMatch j (shiftWindow b s.synchronizer)),
        .inl ⟨by simp [tick, firstMatch], fun a => ?_⟩⟩
      rw [hbit, search_of_first_match ((hfinds a).trans hf) hp]; rfl

/-- A bit that ends no block decodes nothing. -/
theorem bitStep_ctx_chan_of_no_blockEnd {s : State}
    (h : ¬ (s.synchronizer.syncState = .sync ∧ ¬ s.synchronizer.blockBitCounter.toNat < 25)) (b : Bool) :
    (bitStep b s).ctx = s.ctx ∧ (bitStep b s).chan = s.chan := by
  by_cases hs : s.synchronizer.syncState = .sync
  · have hbits : s.synchronizer.blockBitCounter.toNat < 25 := by simpa [hs] using h
    rw [bitStep_countBit hs hbits]
    exact ⟨rfl, rfl⟩
  · obtain ⟨y, ⟨-, hy⟩ | ⟨-, hy⟩⟩ := bitStep_of_search_setAssembler hs b
    all_goals
      have hbit := hy s.assembler
      rw [State.setAssembler_self] at hbit
      rw [hbit]
      exact ⟨rfl, rfl⟩

/-- Settles O20: the end of block 3 stores the fourth word and decodes the group in the state before the bit, which no
handler tells from the state after it. -/
theorem fourthGoodBlockDecodesTheGroup : Obligations.FourthGoodBlockDecodesTheGroup := by
  intro b s hs hbits hp hprog hcount hgood
  have hbit := bitStep_blockEnd (b := b) hs (by omega)
  rw [hp, hgood, assemble_of_fourth (by decide) hprog (by rw [hcount]; rfl)] at hbit
  have hwords : (s.assembler.store 3#2 (dataWord (windowAfter b s))).words =
      ⟨s.assembler.group[0], s.assembler.group[1], s.assembler.group[2], (windowAfter b s).extractLsb' 10 16⟩ := by
    simp [Assembler.words, Assembler.store, dataWord]
  refine ⟨_, _, _, rfl, exec_bitInstr b s, exec_decodeGroup _ s, ?_⟩
  rw [hbit, hwords]
  exact ⟨rfl, rfl, rfl, rfl⟩

/-- Settles O21: only the end of a block decodes, only as a fourth good block, and an assembly of three has position 3
next. -/
theorem noPartialGroupIsDecoded : Obligations.NoPartialGroupIsDecoded := by
  intro b s t hinv hx hchange
  obtain rfl : bitStep b s = t := Host.Outcome.next.inj ((exec_bitInstr b s).symm.trans hx)
  by_cases hend : s.synchronizer.syncState = .sync ∧ ¬ s.synchronizer.blockBitCounter.toNat < 25
  · obtain ⟨hs, hbits⟩ := hend
    rw [bitStep_blockEnd hs hbits] at hchange
    rcases assemble_cases s.synchronizer.blockNumber (dataWord (windowAfter b s))
      (blockGood (windowAfter b s) s.synchronizer.blockNumber) s with ⟨a, ha⟩ | ⟨-, hgood, hprog, hcount, -⟩
    · rw [ha] at hchange
      simp at hchange
    · have hthree : s.assembler.goodCount = 3 := by
        have hle := hinv.assembler.goodCount
        apply BitVec.eq_of_toNat_eq
        simp only [Assembler.store, BitVec.toNat_add] at hcount
        simp at hcount ⊢
        omega
      have hnumber : s.synchronizer.blockNumber = 3#2 := by
        apply BitVec.eq_of_toNat_eq
        rw [← (hinv.assembler.stored hs hprog).1, hthree]
        rfl
      have hfull : s.synchronizer.blockBitCounter = 25 := by
        have hle := hinv.synchronizer.blockBits
        apply BitVec.eq_of_toNat_eq
        simp
        omega
      exact ⟨hs, hfull, hnumber, hprog, hthree, hnumber ▸ hgood⟩
  · simp [bitStep_ctx_chan_of_no_blockEnd hend b] at hchange

/-! ## Words an assembly has not stored (R31, U2) -/

/-- The state with other group words. -/
def State.withGroup (s : State) (v : Vector Word 4) : State := s.setAssembler { s.assembler with group := v }

theorem SameButStaleWords.exists_withGroup {s t : State} (h : SameButStaleWords s t) :
    ∃ v, t = s.withGroup v ∧ (s.assembler.inProgress = true →
      ∀ k : Fin 4, k.val < s.assembler.goodCount.toNat → v[k] = s.assembler.group[k]) :=
  h

theorem SameButStaleWords.refl (s : State) : SameButStaleWords s s := ⟨s.assembler.group, rfl, fun _ _ _ => rfl⟩

theorem SameButStaleWords.of_assembler {s : State} {a : Assembler} {v : Vector Word 4}
    (h : a.inProgress = true → ∀ k : Fin 4, k.val < a.goodCount.toNat → v[k] = a.group[k]) :
    SameButStaleWords (s.setAssembler a) (s.setAssembler { a with group := v }) :=
  ⟨v, rfl, h⟩

theorem SameButStaleWords.setSynchronizer {s t : State} (h : SameButStaleWords s t) (y : Synchronizer) :
    SameButStaleWords (s.setSynchronizer y) (t.setSynchronizer y) := by
  obtain ⟨v, rfl, hv⟩ := h
  exact ⟨v, rfl, hv⟩

/-- A decoded group does not see the assembler, nor changes it. -/
theorem SameButStaleWords.decodeGroupOp {s t : State} (h : SameButStaleWords s t) (g : GroupWords) :
    SameButStaleWords (decodeGroupOp g s) (decodeGroupOp g t) := by
  obtain ⟨v, rfl, hv⟩ := h
  obtain ⟨c, ms, hr⟩ := runGroup_spec (decodeGroup g) s
  rw [decodeGroupOp_setAssembler, Machine.decodeGroupOp, hr]
  exact ⟨v, rfl, hv⟩

/-- Storing the next block in order keeps the stored words alike, and makes one more of them alike. -/
theorem store_group_agrees {a : Assembler} {v : Vector Word 4} {p : BitVec 2} (d : Word)
    (hv : ∀ k : Fin 4, k.val < a.goodCount.toNat → v[k] = a.group[k]) (hp : a.goodCount.toNat = p.toNat) (k : Fin 4)
    (hk : k.val < a.goodCount.toNat + 1) :
    (v.setIfInBounds p.toNat d)[k] = (a.group.setIfInBounds p.toNat d)[k] := by
  simp only [Fin.getElem_fin, Vector.getElem_setIfInBounds]
  split
  · rfl
  · exact hv k (by omega)

/-- ASSEMBLE in order, at the position whose earlier blocks an assembly in progress holds, reads no word that is not
stored: the fourth block completes a group of stored words. -/
theorem SameButStaleWords.assemble {s t : State} (h : SameButStaleWords s t) {p : BitVec 2}
    (hp : s.assembler.inProgress = true → s.assembler.goodCount.toNat = p.toNat ∧ p ≠ 0) (d : Word) (good : Bool) :
    SameButStaleWords (assemble p d good s) (assemble p d good t) := by
  obtain ⟨v, rfl, hv⟩ := h.exists_withGroup
  by_cases hp0 : p = 0#2
  · subst hp0
    rw [assemble_zero, assemble_zero]
    cases good
    · exact .of_assembler (a := s.assembler.clear) (by simp [Assembler.clear])
    · refine .of_assembler (a := s.assembler.start d) (fun _ k hk => ?_)
      obtain rfl : k = 0 := by simpa [Assembler.start] using hk
      simp [Assembler.start]
  cases hprog : s.assembler.inProgress with
  | false => rwa [assemble_of_idle hp0 hprog, assemble_of_idle (s := s.withGroup v) hp0 hprog]
  | true =>
    cases good
    · rw [assemble_of_bad hp0 hprog, assemble_of_bad (s := s.withGroup v) hp0 hprog]
      exact .of_assembler (a := s.assembler.clear) (by simp [Assembler.clear])
    have hstored := store_group_agrees d (hv hprog) (hp hprog).1
    by_cases hc : (s.assembler.goodCount + 1).toNat = 4
    · have hwords : ((s.withGroup v).assembler.store p d).words = (s.assembler.store p d).words := by
        have hthree : s.assembler.goodCount.toNat = 3 := by
          rw [BitVec.toNat_add] at hc
          simp at hc
          omega
        have hword (k : Fin 4) := hstored k (by omega)
        simpa [Assembler.words, Assembler.store, State.withGroup, Fin.forall_fin_succ] using hword
      rw [assemble_of_fourth hp0 hprog hc, assemble_of_fourth (s := s.withGroup v) hp0 hprog hc, hwords,
        State.withGroup, decodeGroupOp_setAssembler, State.setAssembler_setAssembler]
      exact .of_assembler (a := (s.assembler.store p d).clear) (by simp [Assembler.clear])
    · rw [assemble_of_good hp0 hprog hc, assemble_of_good (s := s.withGroup v) hp0 hprog hc]
      refine .of_assembler (a := s.assembler.store p d) (fun _ k hk => hstored k ?_)
      rw [Assembler.store, BitVec.toNat_add] at hk
      simp at hk
      omega

/-- A bit keeps the stale words unread: elsewhere than at the end of a block it reads no word. -/
theorem SameButStaleWords.bitStep {s t : State} (hinv : CoreInv s) (h : SameButStaleWords s t) (b : Bool) :
    SameButStaleWords (bitStep b s) (bitStep b t) := by
  obtain ⟨v, rfl, hv⟩ := h.exists_withGroup
  by_cases hs : s.synchronizer.syncState = .sync
  · by_cases hbits : s.synchronizer.blockBitCounter.toNat < 25
    · rw [bitStep_countBit hs hbits, bitStep_countBit (s := s.withGroup v) hs hbits]
      exact h.setSynchronizer _
    · rw [bitStep_blockEnd hs hbits, bitStep_blockEnd (s := s.withGroup v) hs hbits]
      exact (h.assemble (hinv.assembler.stored hs) _ _).setSynchronizer _
  · obtain ⟨y, ⟨-, hy⟩ | ⟨-, hy⟩⟩ := bitStep_of_search_setAssembler hs b
    · rw [← s.setAssembler_self, hy, State.withGroup, State.setAssembler_setAssembler, hy]
      exact .of_assembler hv
    · rw [← s.setAssembler_self, hy, State.withGroup, State.setAssembler_setAssembler, hy]
      exact .of_assembler (a := s.assembler.clear) (by simp [Assembler.clear])

/-- Settles O22: only the end of a block reads group words, and those it reads are stored. -/
theorem staleGroupWordsAreNeverRead : Obligations.StaleGroupWordsAreNeverRead := by
  intro s t hinv h i s' hx
  rcases instr_cases i with ⟨b, rfl⟩ | rfl | rfl | ⟨g, henc⟩
  · obtain rfl := Host.Outcome.next.inj ((exec_bitInstr b s).symm.trans hx)
    exact ⟨_, exec_bitInstr b t, h.bitStep hinv b⟩
  · obtain rfl : ctxResetStep s = s' := Host.Outcome.next.inj hx
    obtain ⟨v, rfl, -⟩ := h
    exact ⟨_, rfl, .of_assembler (a := s.assembler.clear) (by simp [Assembler.clear])⟩
  · obtain rfl : hardResetStep s = s' := Host.Outcome.next.inj hx
    obtain ⟨v, rfl, -⟩ := h
    exact ⟨_, rfl, .refl _⟩
  · obtain rfl := Host.Outcome.next.inj ((exec_eq_decodeGroupOp henc s).symm.trans hx)
    exact ⟨_, exec_eq_decodeGroupOp henc t, h.decodeGroupOp g⟩

end Sys2Proof.Machine
end

section
/-! PROOFS. The invariant of the core: every element stays in its legal range, whatever the step (R22 to R38). -/

namespace Sys2Proof.Machine

/-! ## The reset values (R321) -/

theorem Synchronizer.reset_legal (w : Nat) : Synchronizer.reset.Legal w :=
  ⟨by decide, Nat.two_pow_pos w, Nat.two_pow_pos w, by decide, by decide, by decide⟩

theorem Assembler.reset_legal (y : Synchronizer) : Assembler.reset.Legal y :=
  ⟨by decide, fun _ => rfl, fun _ h => absurd h (by decide)⟩

/-- Settles O59: the default parameters are legal, and every element has its reset value. -/
theorem invariantHoldsAtReset : Obligations.InvariantHoldsAtReset :=
  ⟨by decide, Synchronizer.reset_legal _, Assembler.reset_legal _, Nat.zero_le _, Nat.zero_le _⟩

/-! ## The context and the queue (R36, R38) -/

theorem handle8A_afList (m : TmcFields) (c : StationContext) : (handle8A m c).1.afList = c.afList := by
  unfold handle8A
  split
  · rfl
  · dsimp only
    split <;> rfl

/-- Only group 0A writes the AF list, and it keeps within the list's depth (R194). -/
theorem handlerOf_legal {depth : Nat} (hdepth : 0 < depth) (i : Instr) {c : StationContext} (hc : c.Legal depth) :
    (handlerOf depth i c).1.Legal depth := by
  unfold StationContext.Legal at *
  cases i
  case group0A hd tune afHi afLo c0 c1 =>
    have hlist : (handle0A depth hd.tp tune afHi afLo c0 c1 c).1.afList = afAppend depth (afHi, afLo) c.afList :=
      congrArg (afAppend _ _) (tuningUpdate_afList ..)
    rw [handlerOf, hlist]
    exact afAppend_length_le hdepth _ _ hc
  case group0B hd tune _ c0 c1 => rwa [handlerOf, handle0B, tuningUpdate_afList]
  case group8A _ m => rwa [handlerOf, handle8A_afList]
  all_goals exact hc

/-- A group enters with the tracked AF list or with an empty one (R161). -/
theorem enteredContext_legal {depth : Nat} {s : State} (h : s.ctx.Legal depth) (g : GroupWords) :
    (enteredContext g s).Legal depth := by
  by_cases hpi : g.b0 = s.ctx.pi
  · rw [enteredContext_of_eq hpi]; exact h
  · rw [enteredContext_of_ne hpi]; exact Nat.zero_le depth

theorem afListDepth_pos {p : Params} (h : p.legal = true) : 0 < p.afListDepth := by
  simp [Params.legal] at h
  omega

theorem decodeGroupOp_eq (g : GroupWords) (s : State) :
    decodeGroupOp g s =
      let handled := handlerOf s.params.afListDepth (decodeGroup g) (enteredContext g s)
      { s with ctx := handled.1, chan := chanAfter (announced g s ++ handled.2) s } :=
  Host.Outcome.next.inj ((exec_decodeGroup g s).symm.trans (exec_group (encode_decodeGroup g) s))

theorem CoreInv.decodeGroupOp {s : State} (h : CoreInv s) (g : GroupWords) : CoreInv (decodeGroupOp g s) := by
  rw [decodeGroupOp_eq]
  exact {
    params := h.params
    synchronizer := h.synchronizer
    assembler := h.assembler
    ctx := handlerOf_legal (afListDepth_pos h.params) _ (enteredContext_legal h.ctx g)
    chan := (emitAll_spec _ _ s.chan).2.1 h.chan }

/-! ## The synchronizer (R22 to R30) -/

theorem tick_legal {w : Nat} {y : Synchronizer} (h : y.Legal w) : (tick w y).Legal w :=
  ⟨h.notReserved, Nat.mod_lt _ (by positivity), h.lastCounter, h.blockBits, h.blocks, h.wrong⟩

theorem firstMatch_legal {w : Nat} {y : Synchronizer} (h : y.Legal w) (j : Offset) : (firstMatch j y).Legal w :=
  ⟨by simp [firstMatch], h.bitCounter, h.bitCounter, h.blockBits, h.blocks, h.wrong⟩

theorem lock_legal {w : Nat} {y : Synchronizer} (h : y.Legal w) (j : Offset) : (lock j y).Legal w :=
  ⟨by simp [lock], h.bitCounter, h.lastCounter, by simp [lock], by simp [lock], by simp [lock]⟩

theorem dropPairing_legal {w : Nat} {y : Synchronizer} (h : y.Legal w) : (dropPairing y).Legal w :=
  ⟨by simp [dropPairing], h.bitCounter, h.lastCounter, h.blockBits, h.blocks, h.wrong⟩

theorem countBit_legal {w : Nat} {y : Synchronizer} (h : y.Legal w) (hbits : y.blockBitCounter.toNat < 25) :
    (countBit y).Legal w := by
  have hbits' : (y.blockBitCounter + 1).toNat ≤ 25 := by
    rw [BitVec.toNat_add_of_lt] <;> simp <;> omega
  exact ⟨h.notReserved, h.bitCounter, h.lastCounter, hbits', h.blocks, h.wrong⟩

/-- The 50th block starts a new quality window, so that at most 49 are counted; a wrong one is counted with its
block. -/
theorem blockEnd_legal {w : Nat} {y : Synchronizer} (h : y.Legal w) (good : Bool) :
    (qualityCheck (advanceBlock (countBad good y))).Legal w := by
  have hle := h.blocks
  have hblocks : (y.blocksCounter + 1).toNat = y.blocksCounter.toNat + 1 :=
    BitVec.toNat_add_of_lt (by simp; omega)
  have hwrong : (y.wrongBlocksCounter + if good then 0 else 1).toNat ≤ y.blocksCounter.toNat + 1 := by
    rw [BitVec.toNat_add]
    exact (Nat.mod_le _ _).trans (Nat.add_le_add h.wrong (by split <;> simp))
  rw [countBad_eq, qualityCheck_eq]
  generalize (y.wrongBlocksCounter + if good then 0 else 1) = wrong at hwrong
  simp only [advanceBlock]
  by_cases h50 : (y.blocksCounter + 1).toNat = 50
  · simp only [h50, true_and, if_true]
    refine ⟨?_, h.bitCounter, h.lastCounter, by simp, by simp, by simp⟩
    dsimp only
    split
    · decide
    · exact h.notReserved
  · simp only [h50, false_and, if_false]
    exact ⟨h.notReserved, h.bitCounter, h.lastCounter, by simp, by dsimp only; omega, by dsimp only; omega⟩

theorem bitStep_synchronizer_legal {s : State} (h : s.synchronizer.Legal s.params.bitctrW) (b : Bool) :
    (bitStep b s).synchronizer.Legal s.params.bitctrW := by
  have hshift : (shiftWindow b s.synchronizer).Legal s.params.bitctrW :=
    ⟨h.notReserved, h.bitCounter, h.lastCounter, h.blockBits, h.blocks, h.wrong⟩
  obtain ⟨y, hy, hcases⟩ := bitStep_synchronizer_cases b s
  rw [hy]
  apply tick_legal
  rcases hcases with ⟨-, rfl⟩ | ⟨-, -, j, rfl⟩ | ⟨-, ⟨j, rfl⟩ | rfl⟩ | ⟨-, hbits, rfl⟩ | ⟨-, -, good, rfl⟩
  · exact hshift
  · exact firstMatch_legal hshift j
  · exact lock_legal hshift j
  · exact dropPairing_legal hshift
  · exact countBit_legal hshift hbits
  · exact blockEnd_legal hshift good

/-! ## The assembler (R31, R150 to R154) -/

theorem Assembler.clear_legal (a : Assembler) (y : Synchronizer) : a.clear.Legal y :=
  ⟨by simp [Assembler.clear], fun _ => rfl, fun _ h => by simp [Assembler.clear] at h⟩

/-- Outside Sync nothing is asked of an assembly's length. -/
theorem Assembler.Legal.of_not_sync {y y' : Synchronizer} {a : Assembler} (h : a.Legal y) (hs : y'.syncState ≠ .sync) :
    a.Legal y' :=
  ⟨h.goodCount, h.idle, fun h' => absurd h' hs⟩

/-- In Sync the block at the next position is the one after those stored, so that it keeps the assembly in step with the
position after it. -/
theorem assemble_legal {s : State} (h : s.assembler.Legal s.synchronizer) (hs : s.synchronizer.syncState = .sync)
    {y : Synchronizer} (hy : y.blockNumber = s.synchronizer.blockNumber + 1) (d : Word) (good : Bool) :
    (assemble s.synchronizer.blockNumber d good s).assembler.Legal y := by
  by_cases hp : s.synchronizer.blockNumber = 0#2
  · rw [hp] at hy ⊢
    rw [assemble_zero]
    cases good
    · exact s.assembler.clear_legal y
    · exact ⟨by simp [Assembler.start], by simp [Assembler.start], fun _ _ => by simp [Assembler.start, hy]⟩
  cases hprog : s.assembler.inProgress with
  | false =>
    rw [assemble_of_idle hp hprog]
    exact ⟨h.goodCount, h.idle, fun _ h' => absurd (hprog.symm.trans h') (by decide)⟩
  | true =>
    cases good
    · rw [assemble_of_bad hp hprog]
      exact s.assembler.clear_legal y
    obtain ⟨hcount, -⟩ := h.stored hs hprog
    by_cases hc : (s.assembler.goodCount + 1).toNat = 4
    · rw [assemble_of_fourth hp hprog hc]
      exact (s.assembler.store _ d).clear_legal y
    · rw [assemble_of_good hp hprog hc]
      have hle := h.goodCount
      have hcount' : (s.assembler.goodCount + 1).toNat = s.assembler.goodCount.toNat + 1 :=
        BitVec.toNat_add_of_lt (by simp; omega)
      have hnumber : y.blockNumber.toNat = s.synchronizer.blockNumber.toNat + 1 := by
        rw [hy, BitVec.toNat_add_of_lt]
        · rfl
        · simp; omega
      refine ⟨?_, fun h' => absurd (hprog.symm.trans h') (by decide), fun _ _ => ⟨?_, fun h0 => ?_⟩⟩
      · exact show (s.assembler.goodCount + 1).toNat ≤ 3 by omega
      · exact show (s.assembler.goodCount + 1).toNat = y.blockNumber.toNat by omega
      · simp [h0] at hnumber

/-! ## Operations and steps -/

theorem CoreInv.write {s : State} (h : CoreInv s) {y : Synchronizer} {a : Assembler} (hy : y.Legal s.params.bitctrW)
    (ha : a.Legal y) : CoreInv ((s.setSynchronizer y).setAssembler a) :=
  ⟨h.params, hy, ha, h.ctx, h.chan⟩

/-- Beside the assembler, a block changes what DECODE_GROUP does, or nothing. -/
theorem CoreInv.assemble_write {s : State} (h : CoreInv s) {p : BitVec 2} {d : Word} {good : Bool} {y : Synchronizer}
    (hy : y.Legal s.params.bitctrW) (ha : (assemble p d good s).assembler.Legal y) :
    CoreInv ((assemble p d good s).setSynchronizer y) := by
  rcases assemble_cases p d good s with ⟨a, hx⟩ | ⟨-, -, -, -, hx⟩ <;> rw [hx] at ha ⊢
  · exact h.write hy ha
  · exact (h.decodeGroupOp _).write (by rwa [decodeGroupOp_eq]) ha

theorem CoreInv.bitStep {s : State} (h : CoreInv s) (b : Bool) : CoreInv (bitStep b s) := by
  have hy := bitStep_synchronizer_legal h.synchronizer b
  by_cases hs : s.synchronizer.syncState = .sync
  · by_cases hbits : s.synchronizer.blockBitCounter.toNat < 25
    · rw [bitStep_countBit hs hbits] at hy ⊢
      exact h.write hy ⟨h.assembler.goodCount, h.assembler.idle, h.assembler.stored⟩
    · rw [bitStep_blockEnd hs hbits] at hy ⊢
      refine h.assemble_write hy (assemble_legal h.assembler hs ?_ _ _)
      rw [countBad_eq, qualityCheck_eq]
      rfl
  · obtain ⟨y, ⟨hns, hbit⟩ | ⟨-, hbit⟩⟩ := bitStep_of_search_setAssembler hs b <;>
      rw [← s.setAssembler_self, hbit] at hy ⊢
    · exact h.write hy (h.assembler.of_not_sync hns)
    · exact h.write hy (s.assembler.clear_legal y)

theorem CoreInv.exec {i : Instr} {s t : State} (h : CoreInv s) (hx : exec i s = .next t) : CoreInv t := by
  rcases instr_cases i with ⟨b, rfl⟩ | rfl | rfl | ⟨g, henc⟩
  · obtain rfl := Host.Outcome.next.inj ((exec_bitInstr b s).symm.trans hx)
    exact h.bitStep b
  · obtain rfl : ctxResetStep s = t := Host.Outcome.next.inj hx
    exact ⟨h.params, h.synchronizer, s.assembler.clear_legal _, Nat.zero_le _, h.chan⟩
  · obtain rfl : hardResetStep s = t := Host.Outcome.next.inj hx
    exact ⟨h.params, Synchronizer.reset_legal _, Assembler.reset_legal _, Nat.zero_le _, Nat.zero_le _⟩
  · obtain rfl := Host.Outcome.next.inj ((exec_eq_decodeGroupOp henc s).symm.trans hx)
    exact h.decodeGroupOp g

/-- Settles O60: an operation keeps every range by what it can do; every other event touches no element with a range but
the queue, which a drain shortens. -/
theorem stepKeepsTheInvariant : Obligations.StepKeepsTheInvariant := by
  intro s t h hx
  obtain ⟨-, ⟨-, rfl⟩ | ⟨e, rest, -, he⟩⟩ := step_cases hx
  · exact h
  have hrest : CoreInv (s.setInputs rest) := ⟨h.params, h.synchronizer, h.assembler, h.ctx, h.chan⟩
  rcases he with ⟨w, i, -, -, hx⟩ | ⟨w, err, -, -, rfl⟩ | ⟨-, -, rfl⟩ | ⟨l, r, -, rfl⟩ | ⟨k, -, rfl⟩
  · exact hrest.exec hx
  · exact hrest
  · exact ⟨h.params, h.synchronizer, h.assembler, h.ctx, (List.tail_sublist _).length_le.trans h.chan⟩
  · exact ⟨h.params, h.synchronizer, h.assembler, h.ctx, h.chan⟩
  · exact ⟨h.params, h.synchronizer, h.assembler, h.ctx, h.chan⟩

end Sys2Proof.Machine
end

section
/-! PROOFS. The syndrome as a polynomial over GF(2) (R11, R110), its linearity (R111), and the two checks of a block
built on it: the search's and BLOCK_CHECK's (R112 to R114). -/

namespace Sys2Proof.Machine

open Polynomial

/-! ## Bit vectors and bit lists as polynomials over GF(2) (R11) -/

/-- A bit as a coefficient. -/
noncomputable def coeffBit (b : Bool) : (ZMod 2)[X] := if b then 1 else 0

/-- The polynomial whose coefficient of X^i is bit i. -/
noncomputable def bitPoly {n : Nat} (m : BitVec n) : (ZMod 2)[X] :=
  ∑ i ∈ Finset.range n, if m.getLsbD i then X ^ i else 0

/-- The generator g(x) of R11. -/
noncomputable def generator : (ZMod 2)[X] := X ^ 10 + X ^ 8 + X ^ 7 + X ^ 5 + X ^ 4 + X ^ 3 + 1

theorem bitPoly_coeff {n : Nat} (m : BitVec n) (i : Nat) : (bitPoly m).coeff i = if m.getLsbD i then 1 else 0 := by
  simp only [bitPoly, finsetSum_coeff, apply_ite (coeff · i), coeff_X_pow, coeff_zero]
  rw [Finset.sum_eq_single i]
  · simp
  · intro k _ hk; simp [hk.symm]
  · intro hi
    simp [BitVec.getLsbD_of_ge m i (by simpa using hi)]

theorem bitPoly_injective {n : Nat} {a b : BitVec n} (h : bitPoly a = bitPoly b) : a = b := by
  apply BitVec.eq_of_getLsbD_eq
  intro i _
  have hc := congrArg (coeff · i) h
  simp only [bitPoly_coeff] at hc
  cases ha : a.getLsbD i <;> cases hb : b.getLsbD i <;> simp [ha, hb] at hc ⊢

theorem bitPoly_xor {n : Nat} (a b : BitVec n) : bitPoly (a ^^^ b) = bitPoly a + bitPoly b := by
  ext i
  simp only [coeff_add, bitPoly_coeff, BitVec.getLsbD_xor]
  cases a.getLsbD i <;> cases b.getLsbD i <;> decide

theorem bitPoly_zeroExtend {n k : Nat} (hk : n ≤ k) (m : BitVec n) : bitPoly (m.zeroExtend k) = bitPoly m := by
  ext i
  simp only [bitPoly_coeff, BitVec.zeroExtend, BitVec.getLsbD_setWidth]
  by_cases hi : i < k
  · simp [hi]
  · simp [hi, BitVec.getLsbD_of_ge m i (by omega)]

theorem bitPoly_append {n k : Nat} (a : BitVec n) (b : BitVec k) :
    bitPoly (a ++ b) = bitPoly a * X ^ k + bitPoly b := by
  ext i
  simp only [bitPoly_coeff, coeff_add, coeff_mul_X_pow', BitVec.getLsbD_append]
  by_cases hi : i < k
  · simp [hi]
  · simp [hi, not_lt.mp hi]

theorem bitPoly_degree_lt {n : Nat} (m : BitVec n) : (bitPoly m).degree < n := by
  rw [degree_lt_iff_coeff_zero]
  intro i hi
  rw [bitPoly_coeff, BitVec.getLsbD_of_ge m i hi, if_neg (by decide)]

theorem generator_eq : bitPoly 0x5B9#11 = generator := by
  simp [bitPoly, generator, Finset.sum_range_succ]
  ring

theorem generator_monic : generator.Monic := by
  unfold generator
  monicity!

theorem generator_degree : generator.degree = 10 := by
  unfold generator
  compute_degree!

/-! ## The register divides (R110) -/

/-- The low ten bits are all of a register whose top bit is clear. -/
theorem bitPoly_register {reg : BitVec 11} (h : reg.getLsbD 10 = false) :
    bitPoly (reg.extractLsb' 0 10) = bitPoly reg := by
  ext i
  rw [bitPoly_coeff, bitPoly_coeff, BitVec.getLsbD_extractLsb', Nat.zero_add]
  rcases Nat.lt_trichotomy i 10 with hi | rfl | hi
  · simp [hi]
  · simpa using h
  · simp [BitVec.getLsbD_of_ge reg i (by omega)]

/-- One shift of the register is a multiplication by X and the next coefficient, but for a multiple of g. -/
theorem crcStep_poly {reg : BitVec 11} (h : reg.getLsbD 10 = false) (b : Bool) :
    (crcStep reg b).getLsbD 10 = false ∧
    generator ∣ bitPoly (crcStep reg b) - (bitPoly reg * X + coeffBit b) := by
  have hshift : bitPoly ((reg <<< 1) ||| (BitVec.ofBool b).zeroExtend 11) = bitPoly reg * X + coeffBit b := by
    ext i
    cases i with
    | zero => cases b <;> simp [bitPoly_coeff, coeffBit]
    | succ i =>
      have hbit : (coeffBit b).coeff (i + 1) = 0 := by cases b <;> simp [coeffBit, coeff_one]
      have hext : ((BitVec.ofBool b).zeroExtend 11).getLsbD (i + 1) = false := by simp
      rw [coeff_add, coeff_mul_X, hbit, add_zero, bitPoly_coeff, bitPoly_coeff, BitVec.getLsbD_or, hext, Bool.or_false,
        BitVec.getLsbD_shiftLeft]
      rcases Nat.lt_trichotomy i 10 with hi | rfl | hi
      · simp [show i + 1 < 11 by omega]
      · simpa using h
      · simp [BitVec.getLsbD_of_ge reg i (by omega)]
  unfold crcStep
  generalize (reg <<< 1) ||| (BitVec.ofBool b).zeroExtend 11 = r at hshift
  dsimp only
  rw [← hshift]
  split
  case isTrue htop => exact ⟨by rw [BitVec.getLsbD_xor, htop]; decide, by simp [bitPoly_xor, generator_eq]⟩
  case isFalse htop => exact ⟨by simpa using htop, by simp⟩

/-- A list of coefficients, highest first, behind those of p (Horner's rule). -/
noncomputable def hornerPoly (p : (ZMod 2)[X]) (bits : List Bool) : (ZMod 2)[X] :=
  bits.foldl (fun p b => p * X + coeffBit b) p

theorem foldl_crcStep_poly (bits : List Bool) {reg : BitVec 11} (h : reg.getLsbD 10 = false) {p : (ZMod 2)[X]}
    (hp : generator ∣ bitPoly reg - p) :
    (bits.foldl crcStep reg).getLsbD 10 = false ∧ generator ∣ bitPoly (bits.foldl crcStep reg) - hornerPoly p bits := by
  induction bits generalizing reg p with
  | nil => exact ⟨h, hp⟩
  | cons b bits ih =>
    obtain ⟨htop, hdvd⟩ := crcStep_poly h b
    refine ih htop ?_
    have hsum : bitPoly (crcStep reg b) - (p * X + coeffBit b) =
        (bitPoly (crcStep reg b) - (bitPoly reg * X + coeffBit b)) + (bitPoly reg - p) * X := by ring
    rw [hsum]
    exact dvd_add hdvd (hp.mul_right X)

theorem hornerPoly_range (f : Nat → Bool) (n : Nat) (p : (ZMod 2)[X]) :
    hornerPoly p ((List.range n).reverse.map f) =
      p * X ^ n + ∑ i ∈ Finset.range n, if f i then X ^ i else 0 := by
  induction n generalizing p with
  | zero => simp [hornerPoly]
  | succ n ih =>
    have hstep : hornerPoly p ((List.range (n + 1)).reverse.map f) =
        hornerPoly (p * X + coeffBit (f n)) ((List.range n).reverse.map f) := by
      simp [hornerPoly, List.range_succ]
    have hbit : coeffBit (f n) * X ^ n = if f n then X ^ n else 0 := by cases f n <;> simp [coeffBit]
    rw [hstep, ih, Finset.sum_range_succ, ← hbit]
    ring

theorem hornerPoly_replicate_false (n : Nat) (p : (ZMod 2)[X]) :
    hornerPoly p (List.replicate n false) = p * X ^ n := by
  induction n generalizing p with
  | zero => simp [hornerPoly]
  | succ n ih =>
    have hstep : hornerPoly p (List.replicate (n + 1) false) = hornerPoly (p * X) (List.replicate n false) := by
      simp [hornerPoly, List.replicate_succ, coeffBit]
    rw [hstep, ih]
    ring

theorem hornerPoly_message {L : Nat} (m : BitVec L) :
    hornerPoly 0 (messageBits m ++ List.replicate 10 false) = bitPoly m * X ^ 10 := by
  have hsplit : hornerPoly 0 (messageBits m ++ List.replicate 10 false) =
      hornerPoly (hornerPoly 0 (messageBits m)) (List.replicate 10 false) := List.foldl_append ..
  rw [hsplit, hornerPoly_replicate_false, messageBits, hornerPoly_range, zero_mul, zero_add]
  rfl

/-- The syndrome is congruent to the shifted message. -/
theorem generator_dvd_syndrome {L : Nat} (m : BitVec L) :
    generator ∣ bitPoly (syndrome m) - bitPoly m * X ^ 10 := by
  obtain ⟨htop, hdvd⟩ := foldl_crcStep_poly (messageBits m ++ List.replicate 10 false) (reg := 0) (by decide)
    (p := 0) (by simp [bitPoly])
  rw [hornerPoly_message] at hdvd
  rwa [syndrome, bitPoly_register htop]

theorem bitPoly_syndrome {L : Nat} (m : BitVec L) : bitPoly (syndrome m) = (bitPoly m * X ^ 10) %ₘ generator := by
  rw [← modByMonic_eq_of_dvd_sub generator_monic (generator_dvd_syndrome m),
    (modByMonic_eq_self_iff generator_monic).mpr (generator_degree ▸ bitPoly_degree_lt _)]

/-- Settles O5: the register holds the remainder at every shift; bit vectors of one width are their polynomials, and
leading zeros change no polynomial. -/
theorem syndromeIsThePolynomialRemainder : Obligations.SyndromeIsThePolynomialRemainder := by
  refine ⟨generator_eq, fun L m => bitPoly_syndrome m, fun L => ?_, fun m => ?_, by decide +kernel, by decide +kernel⟩
  · apply bitPoly_injective
    have hzero (n : Nat) : bitPoly (0#n) = 0 := by simp [bitPoly]
    rw [bitPoly_syndrome, hzero, hzero, zero_mul, zero_modByMonic]
  · apply bitPoly_injective
    rw [bitPoly_syndrome, bitPoly_syndrome, bitPoly_zeroExtend (by decide)]

/-- Settles O6: the remainder is linear, and a data word shifted past the checkword leaves its own remainder there. -/
theorem syndromeIsLinear : Obligations.SyndromeIsLinear := by
  refine ⟨fun L a b => bitPoly_injective ?_, fun d c => bitPoly_injective ?_⟩
  · rw [bitPoly_xor, bitPoly_syndrome, bitPoly_syndrome, bitPoly_syndrome, bitPoly_xor, add_mul, add_modByMonic]
  · rw [bitPoly_syndrome, bitPoly_syndrome, bitPoly_append, bitPoly_zeroExtend (by decide), bitPoly_xor]
    apply modByMonic_eq_of_dvd_sub generator_monic
    have hdiff : (bitPoly d * X ^ 10 + bitPoly c) * X ^ 10 - (bitPoly (syndrome d) + bitPoly c) * X ^ 10 =
        (bitPoly (syndrome d) - bitPoly d * X ^ 10) * -X ^ 10 := by ring
    rw [hdiff]
    exact (generator_dvd_syndrome d).mul_right _

/-! ## The two checks of a block (R112 to R114) -/

theorem generator_isCoprime_X : IsCoprime generator X :=
  ⟨1, -(X ^ 9 + X ^ 7 + X ^ 6 + X ^ 4 + X ^ 3 + X ^ 2), by unfold generator; ring⟩

/-- Ten bits behind a message of zeros are told apart by their syndrome: X does not divide g. -/
theorem syndrome_zeroExtend_injective {a b : BitVec 10} (h : syndrome (a.zeroExtend 26) = syndrome (b.zeroExtend 26)) :
    a = b := by
  have hpoly := congrArg bitPoly h
  rw [bitPoly_syndrome, bitPoly_syndrome, bitPoly_zeroExtend (by decide), bitPoly_zeroExtend (by decide)] at hpoly
  have hdvd : generator ∣ (bitPoly a - bitPoly b) * X ^ 10 := by
    rw [← modByMonic_eq_zero_iff_dvd generator_monic, sub_mul, sub_modByMonic, hpoly, sub_self]
  have hdvd' : generator ∣ bitPoly a - bitPoly b :=
    (generator_isCoprime_X.pow_right (n := 10)).dvd_of_dvd_mul_right hdvd
  have hdegree : (bitPoly a - bitPoly b).degree < generator.degree := by
    rw [generator_degree]
    exact (degree_sub_le _ _).trans_lt (max_lt (bitPoly_degree_lt a) (bitPoly_degree_lt b))
  exact bitPoly_injective (sub_eq_zero.mp (eq_zero_of_dvd_of_degree_lt hdvd' hdegree))

theorem syndrome_offsetWord (j : Offset) : syndrome (j.word.zeroExtend 26) = j.syndromeOf := by
  cases j <;> decide +kernel

theorem syndromeOf_injective {i j : Offset} (h : i.syndromeOf = j.syndromeOf) : i = j := by
  have hfind (k : Offset) : Offset.all.find? (fun l => k.syndromeOf == l.syndromeOf) = some k := by cases k <;> decide
  have hi := hfind i
  rw [h, hfind j] at hi
  exact (Option.some.inj hi).symm

theorem dataWord_append_checkWord (w : BitVec 26) : dataWord w ++ checkWord w = w :=
  BitVec.extractLsb'_append_extractLsb' (w := 16) (len := 10)

/-- A window carries an offset exactly when its syndrome is the offset's: both compare the data word's syndrome and the
checkword with the offset word. -/
theorem carriesOffset_iff (w : BitVec 26) (j : Offset) : carriesOffset w j = true ↔ syndrome w = j.syndromeOf := by
  obtain ⟨-, hparts⟩ := syndromeIsLinear
  have hw : syndrome w = syndrome ((syndrome (dataWord w) ^^^ checkWord w).zeroExtend 26) := by
    rw [← hparts, dataWord_append_checkWord]
  rw [hw, ← syndrome_offsetWord, carriesOffset, beq_iff_eq]
  constructor
  · intro h
    rw [← h, BitVec.xor_comm, ← BitVec.xor_assoc, BitVec.xor_self, BitVec.zero_xor]
  · intro h
    rw [← syndrome_zeroExtend_injective h, BitVec.xor_comm, BitVec.xor_assoc, BitVec.xor_self, BitVec.xor_zero]

theorem dataWord_sentBlock (d : Word) (j : Offset) : dataWord (sentBlock d j) = d := by
  simp only [dataWord, sentBlock, BitVec.extractLsb'_cast, BitVec.extractLsb'_append_eq_left]

theorem checkWord_sentBlock (d : Word) (j : Offset) : checkWord (sentBlock d j) = syndrome d ^^^ j.word := by
  simp only [checkWord, sentBlock, BitVec.extractLsb'_cast, BitVec.extractLsb'_append_eq_right]

theorem syndrome_sentBlock (d : Word) (j : Offset) : syndrome (sentBlock d j) = j.syndromeOf := by
  rw [← carriesOffset_iff, carriesOffset, dataWord_sentBlock, checkWord_sentBlock, BitVec.xor_assoc, BitVec.xor_self,
    BitVec.xor_zero, beq_self_eq_true]

/-- BLOCK_CHECK asks for one of the offsets of the position (R113). -/
theorem blockGood_iff (w : BitVec 26) (p : BitVec 2) :
    blockGood w p = true ↔ ∃ j : Offset, j.pos = p.toNat ∧ carriesOffset w j = true := by
  have hp : p = 0#2 ∨ p = 1#2 ∨ p = 2#2 ∨ p = 3#2 := by revert p; decide
  have hoffset (q : Offset → Prop) : (∃ j, q j) ↔ q .a ∨ q .b ∨ q .c ∨ q .d ∨ q .cPrime := by
    constructor
    · rintro ⟨j, h⟩
      cases j <;> simp [h]
    · rintro (h | h | h | h | h) <;> exact ⟨_, h⟩
  rw [hoffset]
  rcases hp with rfl | rfl | rfl | rfl <;> simp [blockGood, offsetAt, Offset.pos]

/-- Settles O7: a sent block's checkword cancels its data word's syndrome and leaves the offset word's. -/
theorem sentBlockIsFoundByTheSearch : Obligations.SentBlockIsFoundByTheSearch :=
  ⟨syndrome_offsetWord, rfl, rfl, rfl, fun d j =>
    ⟨syndrome_sentBlock d j, findOffset_eq_some (syndrome_sentBlock d j)⟩⟩

/-- Settles O9: BLOCK_CHECK asks for an offset of the position, and carrying an offset is having its syndrome. -/
theorem blockCheckAgreesWithTheSearch : Obligations.BlockCheckAgreesWithTheSearch := by
  intro w p
  simp only [blockGood_iff, carriesOffset_iff]

/-- Settles O8: by the search, since a sent block has the syndrome of one offset alone. -/
theorem sentBlockPassesExactlyAtItsPosition : Obligations.SentBlockPassesExactlyAtItsPosition := by
  intro d j p
  rw [blockCheckAgreesWithTheSearch, syndrome_sentBlock]
  constructor
  · rintro ⟨i, hpos, hsyndrome⟩
    rwa [syndromeOf_injective hsyndrome]
  · exact fun hpos => ⟨j, hpos, rfl⟩

end Sys2Proof.Machine
end

section
/-! PROOFS. The step, event by event (R6, R13, R286, R311), and the ports at a clock edge (R320 to R324). -/

namespace Sys2Proof.Machine

/-! ## One step, by its next event -/

theorem step_op {s : State} {w : OpWord} {rest : List Event} {i : Instr} (hp : s.params.legal = true)
    (h : s.inputs = .op w :: rest) (hd : decode w = .ok i) : step s = exec i (s.setInputs rest) := by
  simp [step, fetch, hp, h, fetchEvent, hd]

theorem step_rejected {s : State} {w : OpWord} {rest : List Event} {e : DecodeError} (hp : s.params.legal = true)
    (h : s.inputs = .op w :: rest) (hd : decode w = .error e) : step s = .next (s.setInputs rest) := by
  simp [step, fetch, hp, h, fetchEvent, hd]

theorem step_idle {s : State} (hp : s.params.legal = true) (h : s.inputs = []) : step s = .next s := by
  simp [step, fetch, hp, h]

theorem step_drain {s : State} {rest : List Event} (hp : s.params.legal = true) (h : s.inputs = .drain :: rest)
    (hf : s.chan.fifo ≠ []) : step s = .next ((s.setInputs rest).setChan (drainByte s.chan)) := by
  simp [step, fetch, hp, h, fetchEvent, hf]

theorem step_drain_empty {s : State} {rest : List Event} (hp : s.params.legal = true) (h : s.inputs = .drain :: rest)
    (hf : s.chan.fifo = []) : step s = .refused .drainOnEmptyQueue := by
  simp [step, fetch, hp, h, fetchEvent, hf]

/-- Settles O55: fetch decodes the word and step runs what it decodes to. -/
theorem stepRunsTheDecodedOperation : Obligations.StepRunsTheDecodedOperation :=
  fun _ _ _ _ hp h hd => step_op hp h hd

/-- Settles O56: both low request lines decode to an error. -/
theorem idleCoreHoldsItsState : Obligations.IdleCoreHoldsItsState := by
  refine ⟨fun s hp h => step_idle hp h, fun s rest hp h => ?_⟩
  rcases h with h | h <;> exact step_rejected hp h rfl

/-- Settles O57: each bound is a conjunct of the check on the parameters. -/
theorem illegalParametersAreRefused : Obligations.IllegalParametersAreRefused := by
  intro s h
  have hp : s.params.legal = false := by
    rw [Bool.eq_false_iff]
    simp only [Params.legal, ne_eq, Bool.and_eq_true, decide_eq_true_eq]
    omega
  simp [step, fetch, hp]

/-- Settles O58: by the next event; no operation is refused, and no other event but a drain can be. -/
theorem noStepIsRefusedOrAborted : Obligations.NoStepIsRefusedOrAborted := by
  intro s hp hdrain
  cases h : s.inputs with
  | nil => exact ⟨_, step_idle hp h⟩
  | cons e rest =>
    cases e with
    | op w =>
      cases hd : decode w with
      | ok i =>
        obtain ⟨t, ht⟩ := exec_next i (s.setInputs rest)
        exact ⟨t, (step_op hp h hd).trans ht⟩
      | error e => exact ⟨_, step_rejected hp h hd⟩
    | drain => exact ⟨_, step_drain hp h (hdrain (by rw [h]; rfl))⟩
    | cfgInputs l r => exact ⟨_, by simp only [step, fetch, hp, if_true, h, fetchEvent]; rfl⟩
    | clock e => exact ⟨_, step_clock hp h⟩

/-- Settles O47: with a head byte the queue is that byte and its tail. -/
theorem drainTakesTheHeadByte : Obligations.DrainTakesTheHeadByte := by
  refine fun s rest hp h => ⟨fun b f hf => ⟨?_, ?_⟩, fun hf => ⟨?_, step_drain_empty hp h hf⟩⟩
  · rw [outData, hf]; rfl
  · rw [step_drain hp h (by simp [hf]), drainByte, hf]; rfl
  · rw [outData, hf]; rfl

/-! ## Hard reset (R320, R321) -/

/-- Settles O48: every value is written out in the reset. -/
theorem hardResetLeavesTheResetState : Obligations.HardResetLeavesTheResetState := by
  intro s
  refine ⟨hardResetStep s, rfl, ?_⟩
  and_intros <;> rfl

/-- Settles O51: the edge has one event, the hard reset, which samples the edge's own configuration inputs. -/
theorem hardResetWinsItsEdge : Obligations.HardResetWinsItsEdge := by
  intro s e rest hp h hrst
  have hin : (clockEdge e (s.setInputs rest)).inputs = .op hardResetWord :: rest := by
    simp [clockEdge, edgeEvents, hrst]
  refine ⟨by simp [bitReady, hrst], by simp [outValid, hrst], _, hardResetStep _, step_clock hp h,
    step_op (s := clockEdge e (s.setInputs rest)) hp hin rfl, ?_⟩
  and_intros <;> rfl

/-! ## Clock edges without a reset (R322 to R324) -/

theorem outValid_iff {s : State} (hbusy : s.ports.busy = 0) : outValid false s = true ↔ s.chan.fifo ≠ [] := by
  simp [outValid, hbusy]

/-- The events of an edge at a ready core, in order (R323, R324, R286). -/
def readyEvents (e : Edge) (s : State) : List Event :=
  (if s.ports.ctxHeld || e.ctxReset then [Event.op ctxResetWord] else []) ++
    (if e.outReady = true ∧ s.chan.fifo ≠ [] then [Event.drain] else []) ++
    (if e.bitValid = true then [Event.op (bitWord e.bitData)] else [])

theorem edgeEvents_of_ready {s : State} {e : Edge} (hrst : e.rst = false) (hbusy : s.ports.busy = 0) :
    edgeEvents e s = readyEvents e s := by
  have hdrain : (outValid false s && e.outReady) = true ↔ e.outReady = true ∧ s.chan.fifo ≠ [] := by
    rw [Bool.and_eq_true, outValid_iff hbusy, and_comm]
  simp [edgeEvents, readyEvents, hrst, hbusy, hdrain]

theorem clockEdge_inputs_of_ready {s : State} {e : Edge} (hrst : e.rst = false) (hbusy : s.ports.busy = 0)
    (rest : List Event) : (clockEdge e (s.setInputs rest)).inputs = readyEvents e s ++ rest :=
  congrArg (· ++ rest) (edgeEvents_of_ready (s := s.setInputs rest) hrst hbusy)

/-- The port layer after an edge at a ready core: no request is held on, and a bit taken there makes it busy (R324). -/
theorem edgePorts_of_ready {s : State} {e : Edge} (hrst : e.rst = false) (hbusy : s.ports.busy = 0) :
    edgePorts e s = {
      cfgPtyLocale := e.cfgPtyLocale
      cfgEmitRawGroup := e.cfgEmitRawGroup
      busy := if e.bitValid then stepCycles s.freeCtr else 0
      ctxHeld := false } := by
  simp [edgePorts, hrst, hbusy]

theorem stepCycles_bounds (n : Nat) : 1 ≤ stepCycles n ∧ stepCycles n ≤ maxStepCycles := by
  have hlt := Nat.mod_lt (Config.freeStepLength n) (Nat.succ_pos Config.maxStepCyclesLessOne)
  exact ⟨Nat.le_add_right .., by rw [stepCycles, maxStepCycles, Nat.add_comm]; exact hlt⟩

/-- Settles O53: the edge writes the port layer and the events alone, and a step's length is within its bounds whatever
the free value is. -/
theorem acceptedBitStartsABoundedStep : Obligations.AcceptedBitStartsABoundedStep := by
  intro s e rest hp h hrst hbusy
  have hports : (clockEdge e (s.setInputs rest)).ports = _ := edgePorts_of_ready (s := s.setInputs rest) hrst hbusy
  rw [hrst]
  refine ⟨by simp [bitReady, hbusy], outValid_iff hbusy, _, step_clock hp h, rfl, rfl, rfl, rfl, rfl, rfl, rfl, rfl, ?_,
    fun hbit => ?_, fun hbit => ?_, clockEdge_inputs_of_ready hrst hbusy rest⟩
  · rw [hports]
  · simp only [hports, hbit, if_true]
    exact stepCycles_bounds s.freeCtr
  · simp [hports, hbit]

/-- Settles O52: the context reset is the first of the edge's events, and it changes no port and no queue. -/
theorem contextResetGoesBeforeTheBit : Obligations.ContextResetGoesBeforeTheBit := by
  intro s e rest hp h hrst hbusy hctx
  have hin := clockEdge_inputs_of_ready hrst hbusy rest
  rw [readyEvents, hctx, Bool.or_true, if_pos rfl, List.append_assoc, List.append_assoc, List.singleton_append,
    ← List.append_assoc] at hin
  have hports : (clockEdge e (s.setInputs rest)).ports = _ := edgePorts_of_ready (s := s.setInputs rest) hrst hbusy
  refine ⟨by simp [bitReady, hrst, hbusy], _, ctxResetStep _, step_clock hp h,
    step_op (s := clockEdge e (s.setInputs rest)) hp hin rfl, rfl, rfl, rfl, rfl, rfl, rfl, ?_, rfl⟩
  exact congrArg PortState.ctxHeld hports

/-- Settles O54: by whether this is the step's last edge. -/
theorem busyCoreHoldsTheContextReset : Obligations.BusyCoreHoldsTheContextReset := by
  intro s e rest hp h hrst hbusy
  have hne : s.ports.busy ≠ 0 := by omega
  refine ⟨by simp [bitReady, hne], by simp [outValid, hne], _, step_clock hp h, ?_, rfl, rfl, rfl, rfl, rfl, ?_, ?_⟩
  · simp [clockEdge, edgePorts, hrst, hne]
  · intro hlong
    simp [clockEdge, edgePorts, edgeEvents, hrst, hlong]
  · intro hlast
    simp [clockEdge, edgePorts, edgeEvents, hrst, hlast, ctxResetWord]

end Sys2Proof.Machine
end

section
/-! PROOFS. The BIT operation beside its matches and the end of a block: search without a match, bits counted in a
block, the transitions of `sync_state` (R122, R127, R135), who may touch the synchronizer (R20), and the window after a
word's bits (R62). -/

namespace Sys2Proof.Machine

/-- Settles O12: SEARCH does nothing without a match. -/
theorem searchWithoutMatchOnlyShifts : Obligations.SearchWithoutMatchOnlyShifts := by
  intro b s hs hw
  have hnone : findOffset (shifted b s).synchronizer.window = none := by
    rw [shifted_eq]; exact findOffset_eq_none hw
  rw [exec_bitInstr, bitStep_of_search hs, search_of_no_match hnone, shifted_eq]; rfl

/-- Settles O15: TRACK below 25 is the two counts. -/
theorem syncCountsTheBitsOfABlock : Obligations.SyncCountsTheBitsOfABlock := by
  intro b s hs hbits
  rw [exec_bitInstr, bitStep_countBit hs hbits, shiftWindow_eq]; rfl

theorem qualityCheck_syncState (y : Synchronizer) :
    (qualityCheck y).syncState = y.syncState ∨
    ((qualityCheck y).syncState = .noSync ∧ y.blocksCounter.toNat = 50 ∧ 35 < y.wrongBlocksCounter.toNat) := by
  rw [qualityCheck_eq]
  dsimp only
  split
  next h => exact .inr ⟨rfl, h⟩
  next => exact .inl rfl

/-- The end of a block leaves Sync only at the 50th block, with at least 35 bad ones before it (R130). -/
theorem blockEnd_syncState (good : Bool) (y : Synchronizer) :
    (qualityCheck (advanceBlock (countBad good y))).syncState = y.syncState ∨
    ((qualityCheck (advanceBlock (countBad good y))).syncState = .noSync ∧ y.blocksCounter.toNat = 49 ∧
      35 ≤ y.wrongBlocksCounter.toNat) := by
  rw [countBad_eq]
  rcases qualityCheck_syncState (advanceBlock { y with
    wrongBlocksCounter := y.wrongBlocksCounter + if good then 0 else 1 }) with h | ⟨h, h50, h35⟩
  · exact .inl h
  · simp only [advanceBlock, BitVec.toNat_add] at h50 h35
    refine .inr ⟨h, by simp at h50; omega, ?_⟩
    have hone : (if good then 0#6 else 1#6).toNat ≤ 1 := by split <;> decide
    have hmod := Nat.mod_le (y.wrongBlocksCounter.toNat + (if good then 0#6 else 1#6).toNat) (2 ^ 6)
    exact Nat.le_of_lt_succ (h35.trans_le (hmod.trans (Nat.add_le_add_left hone _)))

/-- Settles O17: a bit's ways to go in the synchronizer, one by one. -/
theorem syncStateMovesAsTheTableSays : Obligations.SyncStateMovesAsTheTableSays := by
  intro b s t hx
  obtain rfl := Host.Outcome.next.inj ((exec_bitInstr b s).symm.trans hx)
  obtain ⟨y, hy, hcases⟩ := bitStep_synchronizer_cases b s
  have hstate : (bitStep b s).synchronizer.syncState = y.syncState := by rw [hy]; rfl
  rw [hstate]
  rcases hcases with ⟨hs, rfl⟩ | ⟨hs, hp, j, rfl⟩ | ⟨hp, ⟨j, rfl⟩ | rfl⟩ | ⟨hs, hbits, rfl⟩ | ⟨hs, hbits, good, rfl⟩
  · rw [show (shiftWindow b s.synchronizer).syncState = s.synchronizer.syncState from rfl]
    cases h : s.synchronizer.syncState <;> simp [h] at hs ⊢
  · rw [show (firstMatch j (shiftWindow b s.synchronizer)).syncState = .preSync from rfl]
    cases h : s.synchronizer.syncState <;> simp [h] at hs ⊢
  · simp [hp, lock]
  · simp [hp, dropPairing]
  · simp [hs, countBit, shiftWindow]
  · rw [hs]
    rcases blockEnd_syncState good (shiftWindow b s.synchronizer) with h | ⟨h, h49, h35⟩
    · exact .inl (h.trans hs)
    · exact .inr ⟨h, hbits, h49, h35⟩

/-- Settles O18: a context reset and a group write the context, the channel and the assembler at most. -/
theorem onlyBitsAndHardResetMoveTheSynchronizer : Obligations.OnlyBitsAndHardResetMoveTheSynchronizer := by
  intro i s t h0 h1 h2 hx
  rcases instr_cases i with ⟨b, rfl⟩ | rfl | rfl | ⟨g, henc⟩
  · cases b <;> contradiction
  · obtain rfl : ctxResetStep s = t := Host.Outcome.next.inj hx
    exact ⟨rfl, rfl, rfl, rfl⟩
  · contradiction
  · obtain rfl := Host.Outcome.next.inj ((exec_group henc s).symm.trans hx)
    exact ⟨rfl, rfl, rfl, rfl⟩

/-! ## The window after a word's bits (R62) -/

/-- A 26-bit window after one more bit, as a concatenation. -/
def pushBit (w : BitVec 26) (b : Bool) : BitVec 26 := (w.extractLsb' 0 25 ++ BitVec.ofBool b).cast (by decide)

theorem windowAfter_eq_pushBit (b : Bool) (s : State) : windowAfter b s = pushBit s.synchronizer.window b :=
  (shiftWindow_window b s).symm

theorem pushBit_getLsbD (w : BitVec 26) (b : Bool) {k : Nat} (hk : k < 26) :
    (pushBit w b).getLsbD k = if k = 0 then b else w.getLsbD (k - 1) := by
  simp only [pushBit, BitVec.getLsbD_cast, BitVec.getLsbD_append, BitVec.getLsbD_extractLsb', Nat.lt_one_iff,
    Nat.zero_add]
  split
  next h => simp [h]
  next h => simp [show k - 1 < 25 by omega]

/-- The bits of f(n-1), ..., f(0), pushed in this order, move the window up by n and fill its low end. -/
theorem foldl_pushBit_getLsbD (f : Nat → Bool) (n : Nat) (w : BitVec 26) {k : Nat} (hk : k < 26) :
    (((List.range n).reverse.map f).foldl pushBit w).getLsbD k = if k < n then f k else w.getLsbD (k - n) := by
  induction n generalizing w with
  | zero => simp
  | succ n ih =>
    have hstep : ((List.range (n + 1)).reverse.map f).foldl pushBit w =
        ((List.range n).reverse.map f).foldl pushBit (pushBit w (f n)) := by
      simp [List.range_succ]
    rw [hstep, ih, pushBit_getLsbD w _ (by omega)]
    rcases Nat.lt_trichotomy k n with h | rfl | h
    · simp [h, show k < n + 1 by omega]
    · simp
    · simp [show ¬ k < n by omega, show ¬ k < n + 1 by omega, show k - n ≠ 0 by omega, Nat.sub_sub]

theorem foldl_pushBit_messageBits (w v : BitVec 26) : (messageBits w).foldl pushBit v = w := by
  apply BitVec.eq_of_getLsbD_eq
  intro k hk
  rw [messageBits, foldl_pushBit_getLsbD _ _ _ hk, if_pos hk]

/-- The event of an offered bit. -/
def bitEvent (b : Bool) : Event := .op (.bitPort (BitVec.ofBool b))

theorem step_bitEvent {s : State} {b : Bool} {rest : List Event} (hp : s.params.legal = true)
    (h : s.inputs = bitEvent b :: rest) : step s = .next (bitStep b (s.setInputs rest)) := by
  rw [step_op hp h (i := bitInstr b) (by cases b <;> rfl), exec_bitInstr]

/-- A stream of bits runs to its end and pushes each bit into the window. -/
theorem steps_bitEvents (bits : List Bool) {rest : List Event} {s : State} (hp : s.params.legal = true)
    (h : s.inputs = bits.map bitEvent ++ rest) :
    ∃ t, steps bits.length s = .next t ∧ t.synchronizer.window = bits.foldl pushBit s.synchronizer.window ∧
      t.inputs = rest := by
  induction bits generalizing s with
  | nil => exact ⟨s, rfl, rfl, h⟩
  | cons b bits ih =>
    obtain ⟨y, a, c, ms, hframe⟩ := bitStep_frame b (s.setInputs (bits.map bitEvent ++ rest))
    obtain ⟨hwindow, -, -⟩ := bitStep_shifts_and_counts b (s.setInputs (bits.map bitEvent ++ rest))
    rw [windowAfter_eq_pushBit] at hwindow
    obtain ⟨t, ht, htw, htin⟩ := ih (s := bitStep b (s.setInputs (bits.map bitEvent ++ rest)))
      (by rw [hframe]; exact hp) (by rw [hframe]; rfl)
    refine ⟨t, ?_, ?_, htin⟩
    · rw [List.length_cons, steps, step_bitEvent hp h]
      exact ht
    · rw [htw, hwindow]; rfl

/-- Settles O11: 26 bits push every older bit out of the window. -/
theorem windowHoldsTheLast26Bits : Obligations.WindowHoldsTheLast26Bits := by
  intro s w rest hp
  obtain ⟨t, ht, hw, hin⟩ := steps_bitEvents (messageBits w) (rest := rest)
    (s := s.setInputs ((messageBits w).map bitEvent ++ rest)) hp rfl
  have hlength : (messageBits w).length = 26 := by simp [messageBits]
  rw [hlength] at ht
  exact ⟨t, ht, hw.trans (foldl_pushBit_messageBits w _), hin⟩

end Sys2Proof.Machine
end

section
/-! PROOFS. Group decoding: what version B does not read (R87), and the messages of group type 0 (R193 to R206). -/

namespace Sys2Proof.Machine

/-! ## Block 2 of a version B group (R87) -/

/-- Bit 11 of block 1 is the lowest bit of the code, which tells version B from A. -/
theorem headerWord_getLsbD_11 (code : BitVec 5) (hd : Head) (low5 : BitVec 5) :
    (headerWord code hd low5).getLsbD 11 = code.getLsbD 0 := by
  conv_rhs => rw [← typeCode_headerWord code hd low5, typeCode, BitVec.getLsbD_extractLsb']
  simp

/-- Version B groups with the same words but for block 2 have one handler. -/
theorem handlerOf_versionB {i j : Instr} {g : GroupWords} {w : Word} (hB : g.b1.getLsbD 11 = true)
    (hi : encode i = .group g) (hj : encode j = .group { g with b2 := w }) (depth : Nat) :
    handlerOf depth i = handlerOf depth j := by
  obtain rfl := decodeGroup_eq_of_encode hj
  cases i
  case bit0 | bit1 | ctxReset | hardReset => simp [encode] at hi
  all_goals obtain rfl := OpWord.group.inj hi
  case group0A | group2A | group4A | group8A => cases (headerWord_getLsbD_11 _ _ _).symm.trans hB
  case group0B hd tune _ c0 c1 =>
    exact .symm (.trans (congrArg (handlerOf depth) (decodeGroup_group0BWords hd tune w c0 c1)) rfl)
  case group2B hd ab seg _ c0 c1 =>
    exact .symm (.trans (congrArg (handlerOf depth) (decodeGroup_group2BWords hd ab seg w c0 c1)) rfl)
  all_goals simp [decodeGroup, handlerOf]

/-- Settles O25: without RawGroup neither the handler nor the announcement nor the entered context has block 2. -/
theorem versionBBlock2IsNotRead : Obligations.VersionBBlock2IsNotRead := by
  intro i j g w s hraw hB hi hj
  have hannounced : announced g s = announced { g with b2 := w } s := by simp [announced, hraw]
  rw [exec_group hi, exec_group hj, handlerOf_versionB hB hi hj, hannounced]; rfl

/-! ## The messages of group type 0 (R193, R203 to R206) -/

theorem psMessages_eq (c : StationContext) :
    psMessages c = if c.psMask = 0xF#4 then [⟨.ps, c.psBuf.toList⟩] else [] := by
  simp [psMessages]

/-- R190 to R192 write the flags and the PS fields alone. -/
theorem tuningUpdate_frame (tp : Bool) (u : Tuning) (c0 c1 : Byte) (c : StationContext) :
    tuningUpdate tp u c0 c1 c = { c with
      tp := (tuningUpdate tp u c0 c1 c).tp, ta := (tuningUpdate tp u c0 c1 c).ta
      ms := (tuningUpdate tp u c0 c1 c).ms, monoStereo := (tuningUpdate tp u c0 c1 c).monoStereo
      artificialHead := (tuningUpdate tp u c0 c1 c).artificialHead
      compressed := (tuningUpdate tp u c0 c1 c).compressed, dynamicPty := (tuningUpdate tp u c0 c1 c).dynamicPty
      psBuf := (tuningUpdate tp u c0 c1 c).psBuf, psSeen := (tuningUpdate tp u c0 c1 c).psSeen
      psMask := (tuningUpdate tp u c0 c1 c).psMask } := by
  simp only [tuningUpdate_eq]

/-- Settles O31: the handler's messages are those of the context it leaves, and that context is R190 to R192's. -/
theorem group0BEmitsPsAndFlags : Obligations.Group0BEmitsPsAndFlags := by
  intro hd u c0 c1 pr s g h ch
  refine ⟨_, exec_group h s, ?_, tuningUpdate_frame hd.tp u c0 c1 (enteredContext g s)⟩
  rw [List.append_assoc, ← psMessages_eq]; rfl

theorem afMessages_of_none {l : List (Byte × Byte)} (h : afDecode l = none) : afMessages l = [] := by
  rw [afMessages, h]

theorem afMessages_of_some {l : List (Byte × Byte)} {freqs : List AfEntry} (h : afDecode l = some freqs) :
    afMessages l = [⟨.alternateFrequencies, afText freqs⟩] := by
  rw [afMessages, h]

/-- Settles O32: the messages of a 0B group, with the decoded list between them when the pair was appended. -/
theorem group0AEmitsPsFrequenciesAndFlags : Obligations.Group0AEmitsPsFrequenciesAndFlags := by
  intro hd u afHi afLo c0 c1 s g h ch appended text
  have happended : afAppends (afHi, afLo) (tuningUpdate hd.tp u c0 c1 (enteredContext g s)).afList = appended := by
    rw [tuningUpdate_afList, Bool.eq_iff_iff]
    simp [afAppends, appended]
  refine ⟨_, exec_group h s, ?_, ?_⟩
  · rw [List.append_assoc, List.append_assoc, ← psMessages_eq]
    simp only [handlerOf, handle0A, happended]
    clear_value appended
    generalize afAppend s.params.afListDepth (afHi, afLo) (tuningUpdate hd.tp u c0 c1 (enteredContext g s)).afList = l
    rw [List.append_assoc]
    cases appended with
    | false => rfl
    | true =>
      rw [if_pos rfl]
      cases hl : afDecode l with
      | none => rw [afMessages_of_none hl]; rfl
      | some freqs => rw [afMessages_of_some hl]; rfl
  · have hframe := tuningUpdate_frame hd.tp u c0 c1 (enteredContext g s)
    exact congrArg ({ · with
      afList := afAppend s.params.afListDepth (afHi, afLo) (tuningUpdate hd.tp u c0 c1 (enteredContext g s)).afList })
      hframe

end Sys2Proof.Machine
end

section
/-! PROOFS. The dates of MJD_TO_DATE: their ranges, and that they are Gregorian until 2100 (R242). -/

namespace Sys2Proof.Machine

theorem mjdYearDay_le {mjd : Nat} (h : 15079 ≤ mjd) : mjdYearDay mjd ≤ 488 := by
  unfold mjdYearDay mjdYear
  omega

theorem mjdMonth_le {mjd : Nat} (h : 15079 ≤ mjd) : mjdMonth mjd ≤ 15 := by
  have := mjdYearDay_le h
  unfold mjdMonth
  omega

theorem mjdToDate_day_bounds {mjd : Nat} (h : 15079 ≤ mjd) :
    306001 * mjdMonth mjd / 10000 + 1 ≤ mjdYearDay mjd ∧ mjdYearDay mjd ≤ 306001 * mjdMonth mjd / 10000 + 31 := by
  have := mjdYearDay_ge h
  unfold mjdMonth
  omega

/-- The last year of the domain ends before its months 14 and 15. -/
theorem mjdYear_add_carry_le {mjd : Nat} (h : 15079 ≤ mjd) (h' : mjd ≤ 131071) :
    mjdYear mjd + mjdYearCarry mjd ≤ 317 := by
  unfold mjdYearCarry
  split
  next hm =>
    have hday : 428 ≤ mjdYearDay mjd := by unfold mjdMonth at hm; omega
    unfold mjdYearDay at hday
    have hy : mjdYear mjd ≤ 317 := by unfold mjdYear; omega
    omega
  next =>
    unfold mjdYear
    omega

theorem mjdYearCarry_cases {mjd : Nat} (h : 15079 ≤ mjd) :
    (mjdMonth mjd ≤ 13 ∧ mjdYearCarry mjd = 0) ∨ (14 ≤ mjdMonth mjd ∧ mjdYearCarry mjd = 1) := by
  have := mjdMonth_le h
  unfold mjdYearCarry
  split <;> omega

/-- Settles O40: day, month and year from the bounds of R242's m and y; the ends by running the formula. -/
theorem mjdDatesAreInRange : Obligations.MjdDatesAreInRange := by
  refine ⟨fun mjd h h' => ?_, by decide, by decide⟩
  have hday := mjdToDate_day_bounds h
  have hlo := mjdMonth_ge h
  have hhi := mjdMonth_le h
  have hyear := mjdYear_add_carry_le h h'
  have hcarry := mjdYearCarry_cases h
  rw [mjdToDate_eq h]
  dsimp only
  omega

/-- From March, the days before R242's month m are the calendar's (30 or 31 a month, in fifths of 153 days). -/
theorem monthDays_eq {m : Nat} (h4 : 4 ≤ m) (h15 : m ≤ 15) : 306001 * m / 10000 = (153 * (m - 4) + 2) / 5 + 122 := by
  interval_cases m <;> rfl

/-- Settles O41: R242's year y and month m are the calendar's, counted from March, and between 1 March 1900 and
28 February 2100 every fourth year has a leap day in both. -/
theorem mjdDateIsGregorianUntil2100 : Obligations.MjdDateIsGregorianUntil2100 := by
  refine ⟨by decide, fun mjd h h' => ?_⟩
  rw [mjdToDate_eq h]
  intro d a y m
  have hlo := mjdMonth_ge h
  have hhi := mjdMonth_le h
  have hcarry := mjdYearCarry_cases h
  have hday := mjdToDate_day_bounds h
  have ha : a = mjdYearCarry mjd := by simp only [a, d]; omega
  have hy : y = 6700 + mjdYear mjd := by simp only [y, ha, d]; omega
  have hm : m = mjdMonth mjd - 4 := by simp only [m, ha, d]; omega
  have hmonths := monthDays_eq hlo hhi
  have hyears : mjdYearDay mjd + 14956 + (365 * mjdYear mjd + mjdYear mjd / 4) = mjd := by
    have := le_mjd_of_year h
    unfold mjdYearDay
    omega
  have hcenturies : (6700 + mjdYear mjd) / 400 + 51 = (6700 + mjdYear mjd) / 100 := by
    have hyear : mjdYear mjd ≤ 199 := by unfold mjdYear; omega
    rcases Nat.lt_or_ge (mjdYear mjd) 100 with h19 | h20
    · rw [show (6700 + mjdYear mjd) / 400 = 16 by omega]; omega
    · rw [show (6700 + mjdYear mjd) / 400 = 17 by omega]; omega
  rw [hy, hm, show d.day = mjdYearDay mjd - 306001 * mjdMonth mjd / 10000 from rfl]
  clear_value d a y m
  omega

end Sys2Proof.Machine
end

section
/-! PROOFS. What operations do to the message channel (R284, R285), and the frequencies of AF_DECODE (R198, R199). -/

namespace Sys2Proof.Machine

/-! ## The queue and the drop count (R284, R285) -/

/-- Any operation but HARD_RESET changes the channel by emitting messages at most. -/
theorem exec_chan {i : Instr} (hi : i ≠ .hardReset) {s t : State} (hx : exec i s = .next t) :
    ∃ ms, t.chan = emitAll s.params.msgFifoBytes s.chan ms := by
  obtain ⟨y, a, c, ms, h⟩ := exec_frame hi s
  obtain rfl := Host.Outcome.next.inj (h.symm.trans hx)
  exact ⟨ms, rfl⟩

/-- Settles O44: emission appends the frames of some of its messages. -/
theorem queuedBytesStayAndFramesAreWhole : Obligations.QueuedBytesStayAndFramesAreWhole := by
  intro i s t hi hx
  obtain ⟨ms, hchan⟩ := exec_chan hi hx
  obtain ⟨⟨ns, -, hfifo⟩, -, -⟩ := emitAll_spec s.params.msgFifoBytes ms s.chan
  exact ⟨ns, by rw [hchan, hfifo]⟩

/-- Settles O45: emission never lowers the count, and the resets write out the channel or keep it. -/
theorem onlyHardResetLowersTheDropCount : Obligations.OnlyHardResetLowersTheDropCount := by
  refine ⟨fun i s t hi hx => ?_, fun s t hx => ?_, fun s t hx => ?_⟩
  · obtain ⟨ms, hchan⟩ := exec_chan hi hx
    obtain ⟨-, -, hdrop⟩ := emitAll_spec s.params.msgFifoBytes ms s.chan
    rw [hchan]
    exact hdrop
  · obtain rfl : ctxResetStep s = t := Host.Outcome.next.inj hx
    rfl
  · obtain rfl : hardResetStep s = t := Host.Outcome.next.inj hx
    rfl

/-! ## Decoded frequencies (R196 to R201) -/

/-- A VHF value of some code (R198), or an untagged LF or MF value (R199). -/
def AfEntry.InRange (e : AfEntry) : Prop :=
  (e.lfmf = false → ∃ c : Byte, (e.khz : Int) = 87600 + ((c.toNat : Int) - 1) * 100) ∧
  (e.lfmf = true → e.regional = false ∧
    ((∃ c, 1 ≤ c ∧ c ≤ 15 ∧ e.khz = 153 + (c - 1) * 9) ∨ (∃ c, 16 ≤ c ∧ c ≤ 134 ∧ e.khz = 531 + (c - 16) * 9)))

theorem vhfEntry_inRange (c : Byte) (regional : Bool) : (vhfEntry c regional).InRange := by
  rw [vhfEntry_eq]
  exact ⟨fun _ => ⟨c, by push_cast; ring⟩, fun h => absurd h Bool.false_ne_true⟩

theorem lfmfEntries_inRange (c : Byte) : ∀ e ∈ lfmfEntries c, e.InRange := by
  unfold lfmfEntries
  split_ifs with hlf hmf
  · refine List.forall_mem_singleton.mpr ⟨fun h => absurd h.symm Bool.false_ne_true, fun _ => ⟨rfl, .inl ?_⟩⟩
    exact ⟨c.toNat, hlf.1, hlf.2, rfl⟩
  · refine List.forall_mem_singleton.mpr ⟨fun h => absurd h.symm Bool.false_ne_true, fun _ => ⟨rfl, .inr ?_⟩⟩
    exact ⟨c.toNat, hmf.1, hmf.2, rfl⟩
  · exact List.forall_mem_nil _

theorem rowGives_inRange (special : Byte) (row : Byte × Byte) : ∀ e ∈ rowGives special row, e.InRange := by
  unfold rowGives
  split_ifs
  · exact lfmfEntries_inRange row.2
  all_goals simp [vhfEntry_inRange]

theorem foldl_addRow_inRange (n : Nat) (special : Byte) (rows : List (Byte × Byte)) {found : List AfEntry}
    (h : ∀ e ∈ found, e.InRange) : ∀ e ∈ rows.foldl (addRow n special) found, e.InRange := by
  induction rows generalizing found with
  | nil => exact h
  | cons row rows ih =>
    refine ih fun e he => ?_
    rcases List.mem_append.mp he with he | he
    · exact h e he
    · exact rowGives_inRange special row e (List.mem_of_mem_take he)

/-- The walk keeps what is found. -/
theorem exists_foldl_addRow_eq_append (n : Nat) (special : Byte) (rows : List (Byte × Byte)) (found : List AfEntry) :
    ∃ others, rows.foldl (addRow n special) found = found ++ others := by
  induction rows generalizing found with
  | nil => exact ⟨[], found.append_nil.symm⟩
  | cons row rows ih =>
    obtain ⟨others, h⟩ := ih (addRow n special found row)
    exact ⟨_, by rw [List.foldl_cons, h, addRow, List.append_assoc]⟩

/-- A decoded list is the walk from its first row, which gives the first frequency and their number, up to 25. -/
theorem exists_walk_of_afDecode {l : List (Byte × Byte)} {freqs : List AfEntry} (h : afDecode l = some freqs) :
    ∃ (special : Byte) (rows : List (Byte × Byte)),
      freqs = rows.foldl (addRow freqs.length special) [vhfEntry special false] ∧ freqs.length ≤ 25 := by
  cases hfind : l.find? isFirstRow with
  | none =>
    rw [afDecode_of_no_firstRow (List.find?_eq_none.mp hfind)] at h
    cases h
  | some p =>
    obtain ⟨hi, special⟩ := p
    obtain ⟨hrow, pre, rows, rfl, hpre⟩ := List.find?_eq_some_iff_append.mp hfind
    rw [afDecode_of_firstRow (fun p hp => by simpa using hpre p hp) hrow, afWalk_eq_foldl] at h
    split at h
    next hn =>
      cases h
      obtain ⟨-, hhi⟩ := (isFirstRow_iff _).mp hrow
      exact ⟨special, rows, by rw [hn.2], by simp only at hhi; omega⟩
    next => cases h

/-- Settles O35: every row gives entries in range, and the walk only adds what rows give. -/
theorem decodedFrequenciesAreInRange : Obligations.DecodedFrequenciesAreInRange := by
  intro l freqs h
  obtain ⟨special, rows, hwalk, -⟩ := exists_walk_of_afDecode h
  rw [hwalk]
  exact foldl_addRow_inRange _ special rows (by simp [vhfEntry_inRange])

end Sys2Proof.Machine
end

section
/-! PROOFS. The lengths of payloads, kind by kind (R288). -/

namespace Sys2Proof.Machine

/-! ## Spelled numbers (R10) -/

theorem dec_length (v : Nat) : (dec v).length = Nat.log 10 v + 1 := by
  induction v using decimal_induction with
  | last v hv => rw [dec_of_lt_ten hv, Nat.log_of_lt hv]; rfl
  | more v hv ih => rw [dec_of_ten_le hv, List.length_append, ih, Nat.log_of_one_lt_of_le (by decide) hv]; rfl

theorem dec_length_le {v k : Nat} (h : v < 10 ^ (k + 1)) : (dec v).length ≤ k + 1 := by
  rw [dec_length]
  exact Nat.log_lt_of_lt_pow' (by simp) h

theorem le_dec_length {v k : Nat} (h : 10 ^ k ≤ v) : k + 1 ≤ (dec v).length := by
  rw [dec_length]
  exact Nat.succ_le_succ (Nat.le_log_of_pow_le (by decide) h)

theorem dec_length_pos (v : Nat) : 1 ≤ (dec v).length := by
  rw [dec_length]
  omega

theorem padZero_length (n : Nat) (s : List Byte) : (padZero n s).length = max n s.length := by
  simp [padZero]
  omega

theorem dec2_length {v : Nat} (h : v < 100) : (dec2 v).length = 2 := by
  rw [dec2, padZero_length]
  exact max_eq_left (dec_length_le (k := 1) h)

theorem dec4_length {v : Nat} (h : v < 10000) : (dec4 v).length = 4 := by
  rw [dec4, padZero_length]
  exact max_eq_left (dec_length_le (k := 3) h)

/-! ## Clock time (R243) -/

theorem clockText_length {mjd : Nat} (h : 15079 ≤ mjd) (h' : mjd ≤ 131071) (f : ClockFields) :
    25 ≤ (clockText (mjdToDate mjd) f).length ∧ (clockText (mjdToDate mjd) f).length ≤ 26 := by
  obtain ⟨hrange, -, -⟩ := mjdDatesAreInRange
  obtain ⟨-, hday, -, hmonth, -, hyear⟩ := hrange mjd h h'
  have hhour := f.hour.isLt
  have hminute := f.minute.isLt
  have hoffset := f.offset.isLt
  have hsign : (if f.negative then ascii "-" else ascii "+").length = 1 := by split <;> rfl
  have hhours := dec_length_le (v := f.offset.toNat / 2) (k := 1) (by omega)
  have hhours' := dec_length_pos (f.offset.toNat / 2)
  have htenths := dec_length_le (v := 5 * (f.offset.toNat % 2)) (k := 0) (by omega)
  have htenths' := dec_length_pos (5 * (f.offset.toNat % 2))
  have hascii : (ascii ".").length = 1 ∧ (ascii ", ").length = 2 ∧ (ascii ":").length = 1 ∧ (ascii " (").length = 2 ∧
      (ascii "h)").length = 2 := ⟨rfl, rfl, rfl, rfl, rfl⟩
  obtain ⟨hdot, hcomma, hcolon, hopen, hclose⟩ := hascii
  simp only [clockText, List.length_append, hdot, hcomma, hcolon, hopen, hclose, hsign,
    dec2_length (show (mjdToDate mjd).day < 100 by omega), dec2_length (show (mjdToDate mjd).month < 100 by omega),
    dec4_length (show (mjdToDate mjd).year < 10000 by omega), dec2_length (show f.hour.toNat < 100 by omega),
    dec2_length (show f.minute.toNat < 100 by omega)]
  omega

/-! ## Alternate frequencies (R202) -/

/-- A frequency without its regional mark takes 8 or 9 characters on VHF. -/
theorem afEntryText_length_vhf (c : Byte) (regional : Bool) :
    8 ≤ (afEntryText (vhfEntry c regional)).length ∧ (afEntryText (vhfEntry c regional)).length ≤ 20 := by
  have hc := c.isLt
  have hmhz := le_dec_length (v := (87500 + 100 * c.toNat) / 1000) (k := 1) (by omega)
  have hmhz' := dec_length_le (v := (87500 + 100 * c.toNat) / 1000) (k := 2) (by omega)
  have htenths := dec_length_le (v := (87500 + 100 * c.toNat) % 1000 / 100) (k := 0) (by omega)
  have htenths' := dec_length_pos ((87500 + 100 * c.toNat) % 1000 / 100)
  have hregional : (if regional then ascii " (regional)" else []).length ≤ 11 := by split <;> decide
  have hunit : (ascii " MHz").length = 4 := rfl
  have hdot : (ascii ".").length = 1 := rfl
  rw [vhfEntry_eq]
  simp only [afEntryText, Bool.false_eq_true, if_false, List.length_append, hunit, hdot]
  omega

theorem afEntryText_length_le {e : AfEntry} (h : e.InRange) : (afEntryText e).length ≤ 20 := by
  obtain ⟨hvhf, hlfmf⟩ := h
  cases hkind : e.lfmf with
  | false =>
    obtain ⟨c, hc⟩ := hvhf hkind
    have he : e = vhfEntry c e.regional := by
      rw [vhfEntry_eq, ← hkind, show 87500 + 100 * c.toNat = e.khz by omega]
    rw [he]
    exact (afEntryText_length_vhf c e.regional).2
  | true =>
    obtain ⟨hregional, hkhz⟩ := hlfmf hkind
    have hlt : e.khz < 10 ^ 4 := by rcases hkhz with ⟨c, -, hc, hk⟩ | ⟨c, -, hc, hk⟩ <;> omega
    have hdec := dec_length_le (k := 3) hlt
    have hunit : (ascii " kHz").length = 4 := rfl
    simp only [afEntryText, hkind, hregional, if_true, Bool.false_eq_true, if_false, List.length_append,
      List.length_nil, hunit]
    omega

/-- Joined parts of at most k characters. -/
theorem intercalate_length_le (sep : List Byte) {k : Nat} {parts : List (List Byte)} (h : ∀ l ∈ parts, l.length ≤ k) :
    (sep.intercalate parts).length ≤ k * parts.length + sep.length * (parts.length - 1) := by
  induction parts with
  | nil => simp
  | cons l parts ih =>
    obtain ⟨hl, hparts⟩ := List.forall_mem_cons.mp h
    cases parts with
    | nil => simpa using hl
    | cons m parts =>
      have hrest := ih hparts
      rw [List.intercalate_cons_cons, List.length_append, List.length_append]
      simp only [List.length_cons, Nat.add_sub_cancel] at hrest ⊢
      linarith

theorem afText_length {l : List (Byte × Byte)} {freqs : List AfEntry} (h : afDecode l = some freqs) :
    8 ≤ (afText freqs).length ∧ (afText freqs).length ≤ 548 := by
  obtain ⟨special, rows, hwalk, h25⟩ := exists_walk_of_afDecode h
  have hrange : ∀ e ∈ freqs, e.InRange := by
    rw [hwalk]
    exact foldl_addRow_inRange _ special rows (by simp [vhfEntry_inRange])
  obtain ⟨others, hothers⟩ := exists_foldl_addRow_eq_append freqs.length special rows [vhfEntry special false]
  constructor
  · have hfirst := (afEntryText_length_vhf special false).1
    rw [hwalk, hothers, afText]
    cases others with
    | nil => simpa using hfirst
    | cons e others => simp [List.intercalate_cons_cons]; omega
  · have hparts : ∀ t ∈ freqs.map afEntryText, t.length ≤ 20 := by
      simpa using fun e he => afEntryText_length_le (hrange e he)
    have hjoin := intercalate_length_le (ascii ", ") hparts
    rw [List.length_map, show (ascii ", ").length = 2 from rfl] at hjoin
    rw [afText]
    omega

/-! ## RadioText (R224 to R226) -/

theorem terminatedText_length_le {w : Nat} {c : StationContext} {text : List Byte}
    (h : terminatedText w c = some text) : text.length ≤ 64 := by
  unfold terminatedText at h
  split at h
  · cases h
    refine (List.takeWhile_sublist _).length_le.trans ?_
    rw [textPrefix, List.length_take, Vector.length_toList]
    exact min_le_right ..
  · cases h

theorem textMessages_within (w : Nat) (c : StationContext) : ∀ m ∈ textMessages w c, payloadWithin m := by
  cases h : terminatedText w c with
  | some text =>
    rw [textMessages_of_some h]
    exact List.forall_mem_singleton.mpr (terminatedText_length_le h)
  | none =>
    rw [textMessages_of_none h]
    split
    · exact List.forall_mem_singleton.mpr c.rtBuf.length_toList.le
    · exact List.forall_mem_nil _

/-! ## Every group's messages (R288) -/

theorem psMessages_within (c : StationContext) : ∀ m ∈ psMessages c, payloadWithin m := by
  rw [psMessages_eq]
  split
  · exact List.forall_mem_singleton.mpr c.psBuf.length_toList
  · exact List.forall_mem_nil _

theorem afMessages_within (l : List (Byte × Byte)) : ∀ m ∈ afMessages l, payloadWithin m := by
  cases h : afDecode l with
  | none =>
    rw [afMessages_of_none h]
    exact List.forall_mem_nil _
  | some freqs =>
    rw [afMessages_of_some h]
    exact List.forall_mem_singleton.mpr (afText_length h)

theorem handle4A_within (f : ClockFields) (c : StationContext) : ∀ m ∈ (handle4A f c).2, payloadWithin m := by
  have hlt := f.mjd.isLt
  unfold handle4A
  split
  · exact List.forall_mem_nil _
  · exact List.forall_mem_singleton.mpr (clockText_length (by omega) (by omega) f)

theorem handlerOf_within (depth : Nat) (i : Instr) (c : StationContext) :
    ∀ m ∈ (handlerOf depth i c).2, payloadWithin m := by
  have hflags (u : StationContext) : ∀ m ∈ [flagsMessage u], payloadWithin m := List.forall_mem_singleton.mpr rfl
  cases i
  case group0A hd tune afHi afLo c0 c1 =>
    refine List.forall_mem_append.mpr ⟨List.forall_mem_append.mpr ⟨psMessages_within _, ?_⟩, hflags _⟩
    split
    · exact afMessages_within _
    · exact List.forall_mem_nil _
  case group0B hd tune _ c0 c1 => exact List.forall_mem_append.mpr ⟨psMessages_within _, hflags _⟩
  case group2A =>
    rw [handlerOf, handle2A_eq]
    exact textMessages_within 4 _
  case group2B =>
    rw [handlerOf, handle2B_eq]
    exact textMessages_within 2 _
  case group4A _ clock => exact handle4A_within clock c
  case group8A _ m =>
    rw [handlerOf, handle8A_messages]
    exact List.forall_mem_nil _
  all_goals exact List.forall_mem_nil _

/-- The names of R289 have 4 to 21 characters. -/
theorem defaultPtyTable_lengths : ∀ k : Fin 32,
    (4 ≤ defaultPtyTable[k].1.length ∧ defaultPtyTable[k].1.length ≤ 21) ∧
    (4 ≤ defaultPtyTable[k].2.length ∧ defaultPtyTable[k].2.length ≤ 21) := by
  decide

theorem announced_within {s : State} (h : s.params.ptyTable = defaultPtyTable) (g : GroupWords) :
    ∀ m ∈ announced g s, payloadWithin m := by
  refine List.forall_mem_append.mpr ⟨?_, List.forall_mem_cons.mpr ⟨rfl, List.forall_mem_singleton.mpr ?_⟩⟩
  · split
    · exact List.forall_mem_singleton.mpr rfl
    · exact List.forall_mem_nil _
  · obtain ⟨hrds, hrbds⟩ := defaultPtyTable_lengths (g.b1.extractLsb' 5 5).toFin
    simp only [payloadWithin, h]
    split
    · exact hrbds
    · exact hrds

/-- Settles O46: the names by running the table, and each kind of message by the text it carries. -/
theorem payloadLengthsAreBounded : Obligations.PayloadLengthsAreBounded := by
  refine ⟨rfl, rfl, fun i g s henc h => ⟨_, _, exec_group henc s, rfl, ?_⟩⟩
  exact List.forall_mem_append.mpr ⟨announced_within h g, handlerOf_within _ i _⟩

end Sys2Proof.Machine
end
